-- ==== Sys2Proof/Word.lean ====
section
/-! DEFINITION. Word.lean: the widths the spec works at (00_scope R5, R6; 30_encoding R70). -/

namespace Sys2Proof

/-- A byte: 8 bits, unsigned (R6). -/
abbrev Byte := BitVec 8

/-- The varuint value and the DATA operand: 64 bits, unsigned (R5 VALUE_WIDTH, CMD_DATA_WIDTH). -/
abbrev U64 := BitVec 64

/-- A command word: OP in bits 71:64, DATA in bits 63:0 (R70). -/
abbrev CmdWord := BitVec 72

end Sys2Proof
end

