-- ==== Sys2Proof/Machine/Operands.lean ====
section
/-! DEFINITION. Operands.lean: the operand forms of 30_encoding R72, read from the 64-bit DATA field, and written
into it as the assembler does ("zero-extended, in DATA[63:0]", R78). The bits a form does not read are ignored (R73). -/

namespace Sys2Proof.Machine

/-- The byte form: d = DATA[7:0]. -/
def operandByte (data : U64) : Byte := data.extractLsb' 0 8

/-- The u64 form: v = DATA[63:0]. -/
def operandU64 (data : U64) : U64 := data

/-- The index form: i = DATA[7:0]. -/
def operandIndex (data : U64) : Byte := data.extractLsb' 0 8

/-- A byte or index operand placed in DATA, every other bit 0 (R78). -/
def dataOfByte (d : Byte) : U64 := d.setWidth 64

/-- `zext_64` of a byte, as the response's value takes it (R6). -/
def zext64 (b : Byte) : U64 := b.setWidth 64

end Sys2Proof.Machine
end

