-- ==== Sys2Proof/Syntax.lean ====
section
/-! DEFINITION. Syntax.lean: the 17 commands (30_encoding R74), the four operand forms (R72), what decoding answers
(R75), and the assembler's lines and pseudo-instructions (R78, R79). -/

namespace Sys2Proof

/-- The commands of the opcode map, each with the operand its form reads (R72, R74). -/
inductive Instr where
  | nop
  | srst
  | regRd (i : Byte)
  | encLoad (v : U64)
  | encNext
  | decClr
  | decByte (d : Byte)
  | decEnd
  | crcClr
  | crcByte (d : Byte)
  | txStart (n : U64)
  | txByte (d : Byte)
  | txEnd
  | txAbort
  | rxByte (d : Byte)
  | rxEos
  | rxRdbuf (i : Byte)
  deriving DecidableEq, Repr

/-- The operand forms (R72). -/
inductive OperandForm where
  | none
  | byte
  | u64
  | index
  deriving DecidableEq, Repr

/-- The rows of the opcode map, without their operands (R74). -/
inductive Opcode where
  | nop
  | srst
  | regRd
  | encLoad
  | encNext
  | decClr
  | decByte
  | decEnd
  | crcClr
  | crcByte
  | txStart
  | txByte
  | txEnd
  | txAbort
  | rxByte
  | rxEos
  | rxRdbuf
  deriving DecidableEq, Repr

/-- The decoder's two answers: "one of the 17 commands or illegal" (R75). -/
inductive Decoded where
  /-- One of the 17 commands. -/
  | command (i : Instr)
  /-- An unassigned opcode, named by its OP value. -/
  | illegal (op : Byte)
  deriving DecidableEq, Repr

/-- One core line of the assembler: a mnemonic and, if the line has one, its operand literal (R78). -/
structure AsmLine where
  op : Opcode
  operand : Option Nat
  deriving DecidableEq, Repr

/-- The assembler's pseudo-instructions (R79). -/
inductive Pseudo where
  | crcBlock (bs : List Nat)
  | enc (v : Nat)
  | decBytes (bs : List Nat)
  | frame (bs : List Nat)
  | rxStream (bs : List Nat)
  deriving DecidableEq, Repr

/-- A source line that holds something: a command or a pseudo-instruction (R78, R79). -/
inductive SourceLine where
  | command (l : AsmLine)
  | pseudo (p : Pseudo)
  deriving DecidableEq, Repr

/-- Why the assembler refuses a line (R78, R79). -/
inductive AsmError where
  /-- The first word of the line is no mnemonic and no pseudo-instruction. -/
  | unknownMnemonic
  /-- The operand is not an unsigned decimal or 0x literal. -/
  | badLiteral
  /-- "an operand on a command of form none" (R78). -/
  | unexpectedOperand
  /-- "a missing operand on any other form" (R78). -/
  | missingOperand
  /-- An operand above its form's range (R78), or a pseudo-instruction's byte or value above its (R79). -/
  | operandTooLarge
  /-- `FRAME` with n > 255 (R79). -/
  | payloadTooLarge
  deriving DecidableEq, Repr

end Sys2Proof
end

