-- ==== Sys2Proof/Decode.lean ====
section
/-! DEFINITION. Decode.lean: command words to commands and back (30_encoding R70 to R75). -/

namespace Sys2Proof

open Machine

/-- OP, bits 71:64 (R70). -/
def opField (w : CmdWord) : Byte := w.extractLsb' 64 8

/-- DATA, bits 63:0 (R70). -/
def dataField (w : CmdWord) : U64 := w.extractLsb' 0 64

/-- The OP column of the opcode map (R74). -/
def Opcode.code : Opcode → Byte
  | .nop => 0x00#8
  | .srst => 0x01#8
  | .regRd => 0x02#8
  | .encLoad => 0x10#8
  | .encNext => 0x11#8
  | .decClr => 0x18#8
  | .decByte => 0x19#8
  | .decEnd => 0x1A#8
  | .crcClr => 0x20#8
  | .crcByte => 0x21#8
  | .txStart => 0x30#8
  | .txByte => 0x31#8
  | .txEnd => 0x32#8
  | .txAbort => 0x33#8
  | .rxByte => 0x38#8
  | .rxEos => 0x39#8
  | .rxRdbuf => 0x3A#8

/-- The operand column of the opcode map (R72, R74). -/
def Opcode.form : Opcode → OperandForm
  | .nop | .srst | .encNext | .decClr | .decEnd | .crcClr | .txEnd | .txAbort | .rxEos => .none
  | .decByte | .crcByte | .txByte | .rxByte => .byte
  | .encLoad | .txStart => .u64
  | .regRd | .rxRdbuf => .index

/-- The rows of the opcode map, in its order (R74). -/
def Opcode.all : List Opcode :=
  [.nop, .srst, .regRd, .encLoad, .encNext, .decClr, .decByte, .decEnd, .crcClr, .crcByte,
    .txStart, .txByte, .txEnd, .txAbort, .rxByte, .rxEos, .rxRdbuf]

/-- "A command is selected by an exact match of all 8 OP bits" (R74). -/
def Opcode.ofCode (op : Byte) : Option Opcode := Opcode.all.find? fun o => decide (o.code = op)

/-- A row of the map with its operand read from DATA (R72). -/
def Opcode.toInstr (o : Opcode) (data : U64) : Instr :=
  match o with
  | .nop => .nop
  | .srst => .srst
  | .regRd => .regRd (operandIndex data)
  | .encLoad => .encLoad (operandU64 data)
  | .encNext => .encNext
  | .decClr => .decClr
  | .decByte => .decByte (operandByte data)
  | .decEnd => .decEnd
  | .crcClr => .crcClr
  | .crcByte => .crcByte (operandByte data)
  | .txStart => .txStart (operandU64 data)
  | .txByte => .txByte (operandByte data)
  | .txEnd => .txEnd
  | .txAbort => .txAbort
  | .rxByte => .rxByte (operandByte data)
  | .rxEos => .rxEos
  | .rxRdbuf => .rxRdbuf (operandIndex data)

/-- The decoder of R75: total, every word is a command or illegal. -/
def decode (w : CmdWord) : Decoded :=
  match Opcode.ofCode (opField w) with
  | some o => .command (o.toInstr (dataField w))
  | none => .illegal (opField w)

/-- The row of the opcode map a command belongs to (R74). -/
def Instr.opcode : Instr → Opcode
  | .nop => .nop
  | .srst => .srst
  | .regRd _ => .regRd
  | .encLoad _ => .encLoad
  | .encNext => .encNext
  | .decClr => .decClr
  | .decByte _ => .decByte
  | .decEnd => .decEnd
  | .crcClr => .crcClr
  | .crcByte _ => .crcByte
  | .txStart _ => .txStart
  | .txByte _ => .txByte
  | .txEnd => .txEnd
  | .txAbort => .txAbort
  | .rxByte _ => .rxByte
  | .rxEos => .rxEos
  | .rxRdbuf _ => .rxRdbuf

/-- DATA as the assembler writes it: the operand zero-extended, every other bit 0 (R73, R78). -/
def Instr.data : Instr → U64
  | .regRd i | .rxRdbuf i => dataOfByte i
  | .decByte d | .crcByte d | .txByte d | .rxByte d => dataOfByte d
  | .encLoad v | .txStart v => v
  | .nop | .srst | .encNext | .decClr | .decEnd | .crcClr | .txEnd | .txAbort | .rxEos => 0

/-- The 72-bit word `{OP, DATA}` of a command (R70, R78). -/
def encode (i : Instr) : CmdWord := i.opcode.code ++ i.data

/-- The command word that the opcode table's bits stand for: bit 0 of the table's number is DATA[0], and bits at
and above nbits are 0. A command word moves whole, so no byte order enters (R54; 91 N5; assumption log 9). -/
def tableWord (nbits w : Nat) : CmdWord := BitVec.ofNat 72 (w % 2 ^ nbits)

/-- The command the decoder reads from the opcode table's bits, none for an illegal one. -/
def decodeTableWord (nbits w : Nat) : Option Instr :=
  match decode (tableWord nbits w) with
  | .command i => some i
  | .illegal _ => none

end Sys2Proof
end

