-- ==== Sys2Proof/Config.lean ====
section
/-! DEFINITION. Config.lean: the fixed parameters of 00_scope R5 and the one value the spec leaves free. -/

namespace Sys2Proof.Config

/-- CRC_POLY (R5, R140; 90_conflicts C1: the algorithm wins over the label). -/
def crcPoly : Byte := 0x1D#8

/-- CRC_INIT (R5, R141). -/
def crcInit : Byte := 0x00#8

/-- CRC_XOROUT (R5, R141). -/
def crcXorOut : Byte := 0x00#8

/-- VARUINT_MAX_BYTES (R5, R104; 90_conflicts C2). -/
def varuintMaxBytes : Nat := 10

/-- MAX_PAYLOAD (R5, R160). -/
def maxPayload : Nat := 255

/-- RX_BUF_DEPTH: indices 0 to 254 (R5, R30, R50). -/
def rxBufDepth : Nat := 255

/-- The contents of each RX_BUF entry after power-on: "a model takes each entry as a free draw" (R41; 93 I3).
No body, so nothing can be proved of a value of it. DESIGN CHOICE, safe: assumption log 3. -/
opaque rxBufPowerOn : Nat → Byte

end Sys2Proof.Config
end

