-- ==== Sys2Proof/Machine/State.lean ====
section
/-! DEFINITION. State.lean: everything the spec gives the block (10_state R22 to R31), the response record (R40),
the host's side of the command interface (00_scope R11), and the reset values (R41). -/

namespace Sys2Proof.Machine

/-- The status codes a response can carry (60_exceptions R230). The reserved codes 0x3 to 0x7 are never returned
(93 I5), so the type leaves them out. -/
inductive Status where
  | ok
  | done
  | streamEnd
  | errMalformedVaruint
  | errChecksumMismatch
  | errTruncatedStream
  | errPayloadTooLarge
  | errEmptyStream
  | errSequence
  | errRange
  | errIllegalOp
  deriving DecidableEq, Repr

/-- The response record (R40). "A field the command's rule does not set is 0": the defaults. -/
structure Response where
  status : Status := .ok
  bvalid : Bool := false
  byte : Byte := 0
  value : U64 := 0
  count : Byte := 0
  deriving DecidableEq, Repr

/-- The varuint encoder's registers: ENC_VAL (R24) and ENC_CTL (R25). -/
structure EncUnit where
  val : U64
  active : Bool
  count : BitVec 4
  deriving DecidableEq, Repr

/-- The varuint decoder's registers: DEC_ACC (R26) and DEC_CTL (R27). -/
structure DecUnit where
  acc : U64
  count : BitVec 4
  deriving DecidableEq, Repr

/-- TX_CTL.STATE (R28). Code 3 is never reached (R32) and has no constructor (DEDUCED, assumption log 7). -/
inductive TxPhase where
  | idle
  | body
  | trailer
  deriving DecidableEq, Repr

/-- The framer's register TX_CTL (R28). -/
structure TxUnit where
  state : TxPhase
  len : Byte
  cnt : Byte
  crc : Byte
  deriving DecidableEq, Repr

/-- RX_CTL.STATE (R29). Code 3 is never reached (R32) and has no constructor (DEDUCED, assumption log 7). -/
inductive RxPhase where
  | len
  | body
  | crc
  deriving DecidableEq, Repr

/-- The deframer's register RX_CTL (R29). -/
structure RxUnit where
  state : RxPhase
  seen : Bool
  len : Byte
  cnt : Byte
  crc : Byte
  deriving DecidableEq, Repr

/-- RX_BUF (R30): the entries that have been written, index and byte, indices strictly rising. An entry that is
not listed holds its power-on draw (R41; assumption log 3, 4). -/
abbrev Memory := List Host.Cell

/-- The machine. The first six fields are the block's state, all of it (R31). The last two are the host's side of
the command interface and the model's own fields (R11; assumption log 1, 2): nothing in the block reads hostRsp. -/
structure State where
  /-- CRC_ACC (R23). -/
  crcAcc : Byte
  /-- ENC_VAL, ENC_CTL (R24, R25). -/
  enc : EncUnit
  /-- DEC_ACC, DEC_CTL (R26, R27). -/
  dec : DecUnit
  /-- TX_CTL (R28). -/
  tx : TxUnit
  /-- RX_CTL (R29). -/
  rx : RxUnit
  /-- RX_BUF (R30). -/
  rxBuf : Memory
  /-- The command words the host is still to issue, the next one first. DESIGN CHOICE, log 1. -/
  hostCmd : List CmdWord
  /-- The responses the host has received, oldest first. DESIGN CHOICE, log 2. -/
  hostRsp : List Response
  deriving DecidableEq, Repr

/-- Why the machine stops. The block itself has no traps (R233): every error the spec names is a response. -/
inductive Fault where
  /-- Raised by RX_BYTE's write and RX_RDBUF's read of RX_BUF at an index above 254, which does not exist (R50).
  No run from reset reaches it. Safe: the model stops where the spec says nothing. Assumption log 5. -/
  | rxBufIndex
  deriving DecidableEq, Repr

/-- Why an instruction has no meaning. -/
inductive Refusal where
  /-- Raised by exec for an instruction not modelled yet; no arm of exec uses it. Safe. -/
  | notModelled (mnemonic : String)
  deriving DecidableEq, Repr

/-- The ENC registers' reset value (R41). -/
def EncUnit.reset : EncUnit := ⟨0, false, 0⟩

/-- The DEC registers' reset value (R41). -/
def DecUnit.reset : DecUnit := ⟨0, 0⟩

/-- TX_CTL's reset value: IDLE, 0, 0, 0 (R41). -/
def TxUnit.reset : TxUnit := ⟨.idle, 0, 0, 0⟩

/-- RX_CTL's reset value: LEN, 0, 0, 0, 0 (R41). -/
def RxUnit.reset : RxUnit := ⟨.len, false, 0, 0, 0⟩

/-- The state after power-on reset (R41, R261): every register 0, every RX_BUF entry its draw, and a host that has
issued nothing yet. -/
def State.reset : State where
  crcAcc := 0x00#8
  enc := EncUnit.reset
  dec := DecUnit.reset
  tx := TxUnit.reset
  rx := RxUnit.reset
  rxBuf := []
  hostCmd := []
  hostRsp := []

end Sys2Proof.Machine
end

