-- ==== Sys2Proof/Machine/Flags.lean ====
section
/-! DEFINITION. Flags.lean: the block has no status flags or condition codes (10_state R21). What a command computes
instead is its response: the status codes (60_exceptions R230) and the 85-bit packing (30_encoding R71). -/

namespace Sys2Proof.Machine

/-- The 4-bit code of a status (R230). -/
def Status.code : Status → BitVec 4
  | .ok => 0x0#4
  | .done => 0x1#4
  | .streamEnd => 0x2#4
  | .errMalformedVaruint => 0x8#4
  | .errChecksumMismatch => 0x9#4
  | .errTruncatedStream => 0xA#4
  | .errPayloadTooLarge => 0xB#4
  | .errEmptyStream => 0xC#4
  | .errSequence => 0xD#4
  | .errRange => 0xE#4
  | .errIllegalOp => 0xF#4

/-- The kind column of R230: success or error. -/
def Status.isError : Status → Bool
  | .ok | .done | .streamEnd => false
  | .errMalformedVaruint | .errChecksumMismatch | .errTruncatedStream | .errPayloadTooLarge
  | .errEmptyStream | .errSequence | .errRange | .errIllegalOp => true

/-- The response as one 85-bit word: status 84:81, bvalid 80, byte 79:72, value 71:8, count 7:0 (R71). -/
def Response.pack (r : Response) : BitVec 85 :=
  r.status.code ++ BitVec.ofBool r.bvalid ++ r.byte ++ r.value ++ r.count

end Sys2Proof.Machine
end

