-- ==== Sys2Proof/Machine/Ops.lean ====
section
/-! DEFINITION. Ops.lean: the named operations the meanings are written with: the registers' updates, RX_BUF
(20_memory R50), the command interface (00_scope R11), and ending a command with a response or an error
(00_scope R7; 60_exceptions R233). The block has no traps, so raising an error is the response alone. -/

namespace Sys2Proof.Machine

/-- Write CRC_ACC. -/
def State.setCrc (s : State) (c : Byte) : State := { s with crcAcc := c }

/-- Write the ENC registers. -/
def State.setEnc (s : State) (u : EncUnit) : State := { s with enc := u }

/-- Write the DEC registers. -/
def State.setDec (s : State) (u : DecUnit) : State := { s with dec := u }

/-- Write TX_CTL. -/
def State.setTx (s : State) (u : TxUnit) : State := { s with tx := u }

/-- Write RX_CTL. -/
def State.setRx (s : State) (u : RxUnit) : State := { s with rx := u }

/-- Replace RX_BUF. -/
def State.setRxBuf (s : State) (m : Memory) : State := { s with rxBuf := m }

/-- The host receives a response (R11, R40). -/
def State.pushRsp (s : State) (r : Response) : State := { s with hostRsp := s.hostRsp ++ [r] }

/-- `respond`: the command ends with this response, and the host receives it (R7, R11). -/
def State.respond (s : State) (r : Response) : Host.Outcome State Fault Refusal := .next (s.pushRsp r)

/-- `raise S`: the response is the error status, every other field 0 (R7). The state is the one given, so an error
with "state written alongside" is raised on the written state (R231). No trap is taken (R233). -/
def State.raise (s : State) (st : Status) : Host.Outcome State Fault Refusal := s.respond { status := st }

/-- What an RX_BUF entry has been written with, none if nothing has written it. -/
def Memory.lookup : Memory → Nat → Option Byte
  | [], _ => none
  | (j, b) :: m, i => if i = j then some b else Memory.lookup m i

/-- RX_BUF entry i: the last byte written, or the power-on draw (R30, R41; 93 I3, I4). -/
def Memory.read (m : Memory) (i : Nat) : Byte := (m.lookup i).getD (Config.rxBufPowerOn i)

/-- RX_BUF with entry i holding b, the list kept in rising order. -/
def Memory.write : Memory → Nat → Byte → Memory
  | [], i, b => [(i, b)]
  | (j, c) :: m, i, b =>
    if i < j then (i, b) :: (j, c) :: m
    else if i = j then (i, b) :: m
    else (j, c) :: Memory.write m i b

/-- The canonical form: indices strictly rising, all of them of RX_BUF (R50). -/
abbrev Memory.wf (m : Memory) : Prop :=
  m.Pairwise (fun c d => c.1 < d.1) ∧ ∀ c ∈ m, c.1 < Config.rxBufDepth

/-- `MemRead(i, 1)` for 0 ≤ i ≤ 254 (R7, R50); no other entry exists. -/
def State.memRead (s : State) (i : Nat) : Except Fault Byte :=
  if i < Config.rxBufDepth then .ok (s.rxBuf.read i) else .error .rxBufIndex

/-- `MemWrite(i, 1, v)` for 0 ≤ i ≤ 254 (R7, R50); no other entry exists. -/
def State.memWrite (s : State) (i : Nat) (v : Byte) : Except Fault State :=
  if i < Config.rxBufDepth then .ok (s.setRxBuf (s.rxBuf.write i v)) else .error .rxBufIndex

/-- The host issues its next command: the word, and the machine with that word taken (R11). -/
def State.takeCommand (s : State) : Option (CmdWord × State) :=
  match s.hostCmd with
  | [] => none
  | w :: ws => some (w, { s with hostCmd := ws })

/-- With no command issued the block waits, nothing changing (R262; DEDUCED, assumption log 8). -/
def State.awaitCommand (s : State) : Host.Outcome State Fault Refusal := .next s

/-- The host is made to issue this word next, before whatever it was to issue (assumption log 1). -/
def State.issueNext (s : State) (w : CmdWord) : State := { s with hostCmd := w :: s.hostCmd }

/-- An illegal command: ERR_ILLEGAL_OP, no state written, every other response field 0 (R75, R231). -/
def execIllegal (_op : Byte) (s : State) : Host.Outcome State Fault Refusal := s.raise .errIllegalOp

/-- The code of TX_CTL.STATE (R28). -/
def TxPhase.code : TxPhase → BitVec 2
  | .idle => 0
  | .body => 1
  | .trailer => 2

/-- The code of RX_CTL.STATE (R29). -/
def RxPhase.code : RxPhase → BitVec 2
  | .len => 0
  | .body => 1
  | .crc => 2

/-- ENC_CTL as REG_RD shows it: COUNT at 7:4, ACTIVE at 0 (R25, R212). -/
def EncUnit.ctl (u : EncUnit) : BitVec 8 := u.count ++ 0#3 ++ BitVec.ofBool u.active

/-- TX_CTL as REG_RD shows it: CRC 31:24, CNT 23:16, LEN 15:8, STATE 1:0 (R28, R212). -/
def TxUnit.ctl (u : TxUnit) : BitVec 32 := u.crc ++ u.cnt ++ u.len ++ 0#6 ++ u.state.code

/-- RX_CTL as REG_RD shows it: CRC 31:24, CNT 23:16, LEN 15:8, SEEN 2, STATE 1:0 (R29, R212). -/
def RxUnit.ctl (u : RxUnit) : BitVec 32 :=
  u.crc ++ u.cnt ++ u.len ++ 0#5 ++ BitVec.ofBool u.seen ++ u.state.code

/-- The register file of R22 as REG_RD reads it; none for an unassigned number (R22, R212). -/
def State.readReg (s : State) (i : Byte) : Option U64 :=
  match i.toNat with
  | 0x00 => some (zext64 s.crcAcc)
  | 0x01 => some s.enc.val
  | 0x02 => some (s.enc.ctl.setWidth 64)
  | 0x03 => some s.dec.acc
  | 0x04 => some (s.dec.count.setWidth 64)
  | 0x05 => some (s.tx.ctl.setWidth 64)
  | 0x06 => some (s.rx.ctl.setWidth 64)
  | _ => none

end Sys2Proof.Machine
end

