-- ==== Sys2Proof/Machine/Control.lean ====
section
/-! DEFINITION. Control.lean: NOP, SRST, REG_RD (43_control). -/

namespace Sys2Proof.Machine

/-- NOP (R210). -/
def execNop (s : State) : Host.Outcome State Fault Refusal := s.respond { status := .ok }

/-- SRST (R211): every register to its "after SRST" value of R41; RX_BUF is not written. -/
def execSrst (s : State) : Host.Outcome State Fault Refusal :=
  (((((s.setCrc 0x00#8).setEnc EncUnit.reset).setDec DecUnit.reset).setTx TxUnit.reset).setRx
    RxUnit.reset).respond { status := .ok }

/-- REG_RD i (R212). -/
def execRegRd (i : Byte) (s : State) : Host.Outcome State Fault Refusal :=
  match s.readReg i with
  | some v => s.respond { status := .ok, value := v }
  | none => s.raise .errRange

end Sys2Proof.Machine
end

