-- ==== Sys2Proof/Machine/Reference.lean ====
section
/-! DEFINITION. Reference.lean: the reference functions over byte strings: varuint (40_varuint R100 to R102),
CRC-8 (41_crc8 R140, R141), framing (42_framer R160 to R163). The commands' meanings use crcStep and the varuint
byte fields; the rest is what the commands are stated against (R110, R143, R185). -/

namespace Sys2Proof.Machine

/-- How a reference function fails (00_scope R3; 42_framer R161, R162). -/
inductive CodecError where
  | malformedVaruint
  | checksumMismatch
  | truncatedStream
  | payloadTooLarge
  | emptyStream
  deriving DecidableEq, Repr

/-- One of the 8 iterations of R140: shift left, and XOR with the polynomial if the top bit was set. -/
def crcShift (x : Byte) : Byte :=
  if x.getLsbD 7 then (x <<< 1) ^^^ Config.crcPoly else x <<< 1

/-- `repeat n times` of the iteration of R140. -/
def crcShifts : Nat → Byte → Byte
  | 0, x => x
  | n + 1, x => crcShifts n (crcShift x)

/-- `crc_step(c, d)` (R140). -/
def crcStep (c d : Byte) : Byte := crcShifts 8 (c ^^^ d)

/-- `crc8(s)` (R141): from the initial value, folding the bytes in order, with the final XOR. -/
def crc8 (s : List Byte) : Byte := s.foldl crcStep Config.crcInit ^^^ Config.crcXorOut

/-- The table T of R142 (a), as the spec prints it: row hi, column lo is T[0x(hi)(lo)]. No meaning uses it; it is
stated against crcStep (obligation CrcStepIsTheSpecTable). -/
def crcTable : List Byte :=
  [0x00, 0x1D, 0x3A, 0x27, 0x74, 0x69, 0x4E, 0x53, 0xE8, 0xF5, 0xD2, 0xCF, 0x9C, 0x81, 0xA6, 0xBB] ++
  [0xCD, 0xD0, 0xF7, 0xEA, 0xB9, 0xA4, 0x83, 0x9E, 0x25, 0x38, 0x1F, 0x02, 0x51, 0x4C, 0x6B, 0x76] ++
  [0x87, 0x9A, 0xBD, 0xA0, 0xF3, 0xEE, 0xC9, 0xD4, 0x6F, 0x72, 0x55, 0x48, 0x1B, 0x06, 0x21, 0x3C] ++
  [0x4A, 0x57, 0x70, 0x6D, 0x3E, 0x23, 0x04, 0x19, 0xA2, 0xBF, 0x98, 0x85, 0xD6, 0xCB, 0xEC, 0xF1] ++
  [0x13, 0x0E, 0x29, 0x34, 0x67, 0x7A, 0x5D, 0x40, 0xFB, 0xE6, 0xC1, 0xDC, 0x8F, 0x92, 0xB5, 0xA8] ++
  [0xDE, 0xC3, 0xE4, 0xF9, 0xAA, 0xB7, 0x90, 0x8D, 0x36, 0x2B, 0x0C, 0x11, 0x42, 0x5F, 0x78, 0x65] ++
  [0x94, 0x89, 0xAE, 0xB3, 0xE0, 0xFD, 0xDA, 0xC7, 0x7C, 0x61, 0x46, 0x5B, 0x08, 0x15, 0x32, 0x2F] ++
  [0x59, 0x44, 0x63, 0x7E, 0x2D, 0x30, 0x17, 0x0A, 0xB1, 0xAC, 0x8B, 0x96, 0xC5, 0xD8, 0xFF, 0xE2] ++
  [0x26, 0x3B, 0x1C, 0x01, 0x52, 0x4F, 0x68, 0x75, 0xCE, 0xD3, 0xF4, 0xE9, 0xBA, 0xA7, 0x80, 0x9D] ++
  [0xEB, 0xF6, 0xD1, 0xCC, 0x9F, 0x82, 0xA5, 0xB8, 0x03, 0x1E, 0x39, 0x24, 0x77, 0x6A, 0x4D, 0x50] ++
  [0xA1, 0xBC, 0x9B, 0x86, 0xD5, 0xC8, 0xEF, 0xF2, 0x49, 0x54, 0x73, 0x6E, 0x3D, 0x20, 0x07, 0x1A] ++
  [0x6C, 0x71, 0x56, 0x4B, 0x18, 0x05, 0x22, 0x3F, 0x84, 0x99, 0xBE, 0xA3, 0xF0, 0xED, 0xCA, 0xD7] ++
  [0x35, 0x28, 0x0F, 0x12, 0x41, 0x5C, 0x7B, 0x66, 0xDD, 0xC0, 0xE7, 0xFA, 0xA9, 0xB4, 0x93, 0x8E] ++
  [0xF8, 0xE5, 0xC2, 0xDF, 0x8C, 0x91, 0xB6, 0xAB, 0x10, 0x0D, 0x2A, 0x37, 0x64, 0x79, 0x5E, 0x43] ++
  [0xB2, 0xAF, 0x88, 0x95, 0xC6, 0xDB, 0xFC, 0xE1, 0x5A, 0x47, 0x60, 0x7D, 0x2E, 0x33, 0x14, 0x09] ++
  [0x7F, 0x62, 0x45, 0x58, 0x0B, 0x16, 0x31, 0x2C, 0x97, 0x8A, 0xAD, 0xB0, 0xE3, 0xFE, 0xD9, 0xC4]

/-- The continuation bit, bit 7 of a varuint byte (00_scope glossary). -/
def continues (b : Byte) : Bool := b.getLsbD 7

/-- The group, bits 6:0 of a varuint byte, at 64 bits (00_scope glossary). -/
def group64 (b : Byte) : U64 := (b.extractLsb' 0 7).setWidth 64

/-- Byte k of a varuint would take the value past 64 bits: the tenth byte with bit 7 or any of bits 6:1 set
(R104, R105). -/
def overflowsAt (k : Nat) (b : Byte) : Bool :=
  decide (k = 9) && (continues b || decide (b.extractLsb' 1 6 ≠ 0))

/-- The low 7 bits of a value, as a byte with bit 7 clear (R100). -/
def lowGroup (v : U64) : Byte := (v.extractLsb' 0 7).setWidth 8

/-- The loop of R100, at most this many passes. -/
def varuintEncodeLoop : Nat → U64 → List Byte
  | 0, _ => []
  | n + 1, v =>
    if v >>> 7 = 0 then [lowGroup v]
    else (0x80#8 ||| lowGroup v) :: varuintEncodeLoop n (v >>> 7)

/-- `varuint_encode(v)` (R100). Ten passes are enough for 64 bits, so the bound on the loop never cuts it
(DEDUCED, assumption log 12; Laws/Reference.lean varuintEncode_eq). -/
def varuintEncode (v : U64) : List Byte := varuintEncodeLoop Config.varuintMaxBytes v

/-- `varuint_len(v)` (R102). -/
def varuintLen (v : U64) : Nat := (varuintEncode v).length

/-- The loop of R101, from byte k with the value accumulated so far. -/
def varuintDecodeFrom (k : Nat) (acc : U64) : List Byte → Except CodecError (U64 × Nat)
  | [] => .error .malformedVaruint
  | b :: s =>
    if overflowsAt k b then .error .malformedVaruint
    else if continues b then varuintDecodeFrom (k + 1) (acc ||| (group64 b <<< (7 * k))) s
    else .ok (acc ||| (group64 b <<< (7 * k)), k + 1)

/-- `varuint_decode(s)` (R101). -/
def varuintDecode (s : List Byte) : Except CodecError (U64 × Nat) := varuintDecodeFrom 0 0 s

/-- `frame(p)` (R160; its laws R165 (a) to (c) are the obligations UnframeOfFrame, SplitStreamOfFrames,
OneByteChangeFailsUnframe). -/
def frame (p : List Byte) : Except CodecError (List Byte) :=
  if Config.maxPayload < p.length then .error .payloadTooLarge
  else .ok (BitVec.ofNat 8 p.length :: p ++ [crc8 p])

/-- What unframe returns (R161). -/
structure Packet where
  length : Byte
  payload : List Byte
  checksum : Byte
  deriving DecidableEq, Repr

/-- `unframe(s)` (R161): the trailer is the byte at offset L + 1, whatever follows it (90_conflicts C4). Its laws are
R165 (a) and (c). -/
def unframe : List Byte → Except CodecError Packet
  | [] => .error .emptyStream
  | l :: rest =>
    match rest.drop l.toNat with
    | [] => .error .truncatedStream
    | t :: _ =>
      if t = crc8 (rest.take l.toNat) then .ok ⟨l, rest.take l.toNat, t⟩
      else .error .checksumMismatch

/-- How a stream ended (R162). -/
inductive StreamEnd where
  | clean
  | truncated
  | empty
  deriving DecidableEq, Repr

/-- The loop of R162 on what is left of the stream, at most this many passes. -/
def splitLoop : Nat → List Byte → List (List Byte) × StreamEnd
  | 0, _ => ([], .clean)
  | _ + 1, [] => ([], .clean)
  | n + 1, l :: rest =>
    if rest.length < l.toNat + 1 then ([], .truncated)
    else
      let r := splitLoop n (rest.drop (l.toNat + 1))
      ((l :: rest.take (l.toNat + 1)) :: r.1, r.2)

/-- `splitStream(s)` (R162). Every pass consumes at least two bytes, so the bound on the loop never cuts it
(DEDUCED, assumption log 12; Laws/Reference.lean splitLoop_fuel). Its laws are R165 (b) and (d), the latter the
obligation SlicesCoverAPrefixOfTheStream. -/
def splitStream (s : List Byte) : List (List Byte) × StreamEnd :=
  if s = [] then ([], .empty) else splitLoop s.length s

/-- `receive(s)` (R163): unframe every slice, in stream order; a bad packet does not stop the next. -/
def receive (s : List Byte) : List (Except CodecError Packet) × StreamEnd :=
  ((splitStream s).1.map unframe, (splitStream s).2)

end Sys2Proof.Machine
end

