-- ==== Sys2Proof/Machine/Crc.lean ====
section
/-! DEFINITION. Crc.lean: the CRC unit's commands (41_crc8 R145, R146). -/

namespace Sys2Proof.Machine

/-- CRC_CLR (R145). -/
def execCrcClr (s : State) : Host.Outcome State Fault Refusal :=
  (s.setCrc Config.crcInit).respond { status := .ok }

/-- CRC_BYTE d (R146). -/
def execCrcByte (d : Byte) (s : State) : Host.Outcome State Fault Refusal :=
  let c := crcStep s.crcAcc d
  (s.setCrc c).respond { status := .ok, value := zext64 c }

end Sys2Proof.Machine
end

