-- ==== Sys2Proof/Machine/Deframer.lean ====
section
/-! DEFINITION. Deframer.lean: the RX unit's commands (42_framer R180 to R182). -/

namespace Sys2Proof.Machine

/-- RX_BYTE in LEN: the length byte of a packet (R180). -/
def rxLengthByte (d : Byte) (s : State) : Host.Outcome State Fault Refusal :=
  (s.setRx
    { state := if d = 0 then .crc else .body, seen := true, len := d, cnt := 0, crc := Config.crcInit }).respond
    { status := .ok, count := d }

/-- RX_BYTE in BODY: a payload byte, stored in entry CNT (R180). CNT + 1 is taken at 8 bits (assumption log 6);
entry 255 does not exist (assumption log 5). -/
def rxPayloadByte (d : Byte) (s : State) : Host.Outcome State Fault Refusal :=
  match s.memWrite s.rx.cnt.toNat d with
  | .error f => .fault f
  | .ok s' =>
    let k := s.rx.cnt + 1
    (s'.setRx
      { state := if k = s.rx.len then .crc else .body
        seen := true
        len := s.rx.len
        cnt := k
        crc := crcStep s.rx.crc d }).respond
      { status := .ok, count := k }

/-- RX_BYTE in CRC: the trailer byte (R180). The state goes back to LEN whether or not the trailer is right; LEN,
CNT and CRC are kept for REG_RD. On a mismatch value[15:8] is the received and value[7:0] the computed CRC. -/
def rxTrailerByte (d : Byte) (s : State) : Host.Outcome State Fault Refusal :=
  let s' := s.setRx { s.rx with state := .len, seen := true }
  if d = s.rx.crc then
    s'.respond { status := .done, value := zext64 s.rx.crc, count := s.rx.len }
  else
    s'.respond
      { status := .errChecksumMismatch, value := (d ++ s.rx.crc).setWidth 64, count := s.rx.len }

/-- RX_BYTE d (R180). -/
def execRxByte (d : Byte) (s : State) : Host.Outcome State Fault Refusal :=
  match s.rx.state with
  | .len => rxLengthByte d s
  | .body => rxPayloadByte d s
  | .crc => rxTrailerByte d s

/-- RX_EOS (R181). -/
def execRxEos (s : State) : Host.Outcome State Fault Refusal :=
  match s.rx.state, s.rx.seen with
  | .len, true => (s.setRx { s.rx with seen := false }).respond { status := .streamEnd }
  | .len, false => s.raise .errEmptyStream
  | _, _ =>
    (s.setRx { s.rx with state := .len, seen := false }).respond
      { status := .errTruncatedStream, value := s.rx.state.code.setWidth 64, count := s.rx.cnt }

/-- RX_RDBUF i (R182). -/
def execRxRdbuf (i : Byte) (s : State) : Host.Outcome State Fault Refusal :=
  if 254 < i.toNat then s.raise .errRange
  else
    match s.memRead i.toNat with
    | .error f => .fault f
    | .ok b => s.respond { status := .ok, value := zext64 b }

end Sys2Proof.Machine
end

