-- ==== Sys2Proof/Machine/Framer.lean ====
section
/-! DEFINITION. Framer.lean: the TX unit's commands (42_framer R170 to R173). -/

namespace Sys2Proof.Machine

/-- TX_START n (R170). ERR_SEQUENCE is checked before ERR_PAYLOAD_TOO_LARGE (R234). -/
def execTxStart (n : U64) (s : State) : Host.Outcome State Fault Refusal :=
  if s.tx.state ≠ .idle then s.raise .errSequence
  else if Config.maxPayload < n.toNat then s.raise .errPayloadTooLarge
  else
    let l := n.setWidth 8
    (s.setTx
      { state := if n = 0 then .trailer else .body, len := l, cnt := 0, crc := Config.crcInit }).respond
      { status := .ok, bvalid := true, byte := l, count := l }

/-- TX_BYTE d (R171). The count is kept at its 8 bits (assumption log 6). -/
def execTxByte (d : Byte) (s : State) : Host.Outcome State Fault Refusal :=
  if s.tx.state ≠ .body then s.raise .errSequence
  else
    let c := s.tx.cnt + 1
    (s.setTx
      { state := if c = s.tx.len then .trailer else .body
        len := s.tx.len
        cnt := c
        crc := crcStep s.tx.crc d }).respond
      { status := .ok, bvalid := true, byte := d, count := c }

/-- TX_END (R172): LEN, CNT and CRC are kept for REG_RD. -/
def execTxEnd (s : State) : Host.Outcome State Fault Refusal :=
  if s.tx.state ≠ .trailer then s.raise .errSequence
  else
    (s.setTx { s.tx with state := .idle }).respond
      { status := .done, bvalid := true, byte := s.tx.crc, value := zext64 s.tx.crc, count := s.tx.len }

/-- TX_ABORT (R173). -/
def execTxAbort (s : State) : Host.Outcome State Fault Refusal :=
  (s.setTx TxUnit.reset).respond { status := .ok, count := s.tx.cnt }

end Sys2Proof.Machine
end

