-- ==== Sys2Proof/Machine/Varuint.lean ====
section
/-! DEFINITION. Varuint.lean: the ENC unit's and the DEC unit's commands (40_varuint R120, R121, R130 to R132). -/

namespace Sys2Proof.Machine

/-- ENC_LOAD v (R120). -/
def execEncLoad (v : U64) (s : State) : Host.Outcome State Fault Refusal :=
  (s.setEnc { val := v, active := true, count := 0 }).respond { status := .ok }

/-- ENC_NEXT (R121). The count is kept and returned at its 4 bits (assumption log 6). -/
def execEncNext (s : State) : Host.Outcome State Fault Refusal :=
  if s.enc.active then
    let g := lowGroup s.enc.val
    let rest := s.enc.val >>> 7
    let n := s.enc.count + 1
    if rest = 0 then
      (s.setEnc { val := 0, active := false, count := n }).respond
        { status := .done, bvalid := true, byte := g, count := n.setWidth 8 }
    else
      (s.setEnc { val := rest, active := true, count := n }).respond
        { status := .ok, bvalid := true, byte := 0x80#8 ||| g, count := n.setWidth 8 }
  else s.raise .errSequence

/-- DEC_CLR (R130). -/
def execDecClr (s : State) : Host.Outcome State Fault Refusal :=
  (s.setDec DecUnit.reset).respond { status := .ok }

/-- DEC_BYTE d (R131). The count is kept and returned at its 4 bits (assumption log 6). -/
def execDecByte (d : Byte) (s : State) : Host.Outcome State Fault Refusal :=
  let k := s.dec.count.toNat
  if overflowsAt k d then
    (s.setDec DecUnit.reset).respond { status := .errMalformedVaruint, count := 10 }
  else
    let acc := s.dec.acc ||| (group64 d <<< (7 * k))
    let n := s.dec.count + 1
    if continues d then
      (s.setDec { acc := acc, count := n }).respond { status := .ok, count := n.setWidth 8 }
    else
      (s.setDec DecUnit.reset).respond { status := .done, value := acc, count := n.setWidth 8 }

/-- DEC_END (R132): always ERR_MALFORMED_VARUINT, the unit cleared alongside. -/
def execDecEnd (s : State) : Host.Outcome State Fault Refusal :=
  (s.setDec DecUnit.reset).respond
    { status := .errMalformedVaruint, count := s.dec.count.setWidth 8 }

end Sys2Proof.Machine
end

