-- ==== Sys2Proof/Machine/Dispatch.lean ====
section
/-! DEFINITION. Dispatch.lean: one arm per command (30_encoding R74). -/

namespace Sys2Proof.Machine

def exec (i : Instr) (s : State) : Host.Outcome State Fault Refusal :=
  match i with
  | .nop => Sys2Proof.Machine.execNop s
  | .srst => Sys2Proof.Machine.execSrst s
  | .regRd i' => Sys2Proof.Machine.execRegRd i' s
  | .encLoad v => Sys2Proof.Machine.execEncLoad v s
  | .encNext => Sys2Proof.Machine.execEncNext s
  | .decClr => Sys2Proof.Machine.execDecClr s
  | .decByte d => Sys2Proof.Machine.execDecByte d s
  | .decEnd => Sys2Proof.Machine.execDecEnd s
  | .crcClr => Sys2Proof.Machine.execCrcClr s
  | .crcByte d => Sys2Proof.Machine.execCrcByte d s
  | .txStart n => Sys2Proof.Machine.execTxStart n s
  | .txByte d => Sys2Proof.Machine.execTxByte d s
  | .txEnd => Sys2Proof.Machine.execTxEnd s
  | .txAbort => Sys2Proof.Machine.execTxAbort s
  | .rxByte d => Sys2Proof.Machine.execRxByte d s
  | .rxEos => Sys2Proof.Machine.execRxEos s
  | .rxRdbuf i' => Sys2Proof.Machine.execRxRdbuf i' s

end Sys2Proof.Machine
end

