-- ==== Sys2Proof/Machine/Step.lean ====
section
/-! DEFINITION. Step.lean: one step is one command, delivered by the host (00_scope R8, R11; 70_reset R260). -/

namespace Sys2Proof.Machine

/-- The block executes one command word: the decoded command, or the illegal-command answer (R75). -/
def runWord (w : CmdWord) (s : State) : Host.Outcome State Fault Refusal :=
  match decode w with
  | .command i => exec i s
  | .illegal op => execIllegal op s

/-- One step: the host's next command, complete before the next begins (R8, R260); with none issued, the block
waits (R262). -/
def step (s : State) : Host.Outcome State Fault Refusal :=
  match s.takeCommand with
  | none => s.awaitCommand
  | some (w, s') => runWord w s'

/-- The host is made to issue the opcode table's word next (assumption log 1, 9). -/
def State.withFetchWord (s : State) (nbits w : Nat) : State := s.issueNext (tableWord nbits w)

end Sys2Proof.Machine
end

