-- ==== Sys2Proof/WellFormed.lean ====
section
/-! DEFINITION. WellFormed.lean: which terms of the syntax mean something.
Every term of Instr is a command: its operands have the operand forms' widths (R72), so Instr needs no check.
What can be ill-formed is what the assembler reads: a line (R78) or a pseudo-instruction (R79). -/

namespace Sys2Proof

/-- The largest literal each operand form takes; `none` where the form has no operand (R78). -/
def OperandForm.limit : OperandForm → Option Nat
  | .none => Option.none
  | .byte => some 255
  | .u64 => some (2 ^ 64 - 1)
  | .index => some 255

/-- A form and the operand found on a line fit: no operand on form none, one in range on any other (R78). -/
def OperandForm.admits (f : OperandForm) (operand : Option Nat) : Bool :=
  match f.limit, operand with
  | Option.none, Option.none => true
  | some m, some v => decide (v ≤ m)
  | _, _ => false

/-- The operands of a pseudo-instruction are in range, and a FRAME is not longer than a packet (R79). -/
def Pseudo.wellFormed : Pseudo → Bool
  | .crcBlock bs => bs.all (decide <| · ≤ 255)
  | .enc v => decide (v ≤ 2 ^ 64 - 1)
  | .decBytes bs => bs.all (decide <| · ≤ 255)
  | .frame bs => decide (bs.length ≤ Config.maxPayload) && bs.all (decide <| · ≤ 255)
  | .rxStream bs => bs.all (decide <| · ≤ 255)

end Sys2Proof
end

