-- ==== Sys2Proof/Machine/Assembler.lean ====
section
/-! DEFINITION. Assembler.lean: the assembler's lines (30_encoding R78) and pseudo-instructions (R79). The block
never sees either: it sees the command words. What R78 leaves open of the text is a DESIGN CHOICE (assumption
log 10). -/

namespace Sys2Proof.Machine

/-- The mnemonic column of the opcode map (R74). -/
def mnemonicOf : Opcode → List Char
  | .nop => "NOP".toList
  | .srst => "SRST".toList
  | .regRd => "REG_RD".toList
  | .encLoad => "ENC_LOAD".toList
  | .encNext => "ENC_NEXT".toList
  | .decClr => "DEC_CLR".toList
  | .decByte => "DEC_BYTE".toList
  | .decEnd => "DEC_END".toList
  | .crcClr => "CRC_CLR".toList
  | .crcByte => "CRC_BYTE".toList
  | .txStart => "TX_START".toList
  | .txByte => "TX_BYTE".toList
  | .txEnd => "TX_END".toList
  | .txAbort => "TX_ABORT".toList
  | .rxByte => "RX_BYTE".toList
  | .rxEos => "RX_EOS".toList
  | .rxRdbuf => "RX_RDBUF".toList

/-- The digits of a literal, decimal or hexadecimal (R78). -/
def digitValue (base : Nat) (c : Char) : Option Nat :=
  let v :=
    if '0' ≤ c ∧ c ≤ '9' then c.toNat - '0'.toNat
    else if 'a' ≤ c ∧ c ≤ 'f' then c.toNat - 'a'.toNat + 10
    else if 'A' ≤ c ∧ c ≤ 'F' then c.toNat - 'A'.toNat + 10
    else base
  if v < base then some v else none

/-- The number that a string of digits goes on to write, after the value read so far. -/
def readDigits (base : Nat) (v : Nat) : List Char → Option Nat
  | [] => some v
  | c :: cs =>
    match digitValue base c with
    | some d => readDigits base (v * base + d) cs
    | none => none

/-- "An unsigned literal, in decimal or as 0x hex" (R78). -/
def parseLiteral : List Char → Option Nat
  | [] => none
  | '0' :: 'x' :: c :: cs => readDigits 16 0 (c :: cs)
  | cs => readDigits 10 0 cs

/-- White space inside a line. -/
def isBlank (c : Char) : Bool := decide (c = ' ') || decide (c = '\t') || decide (c = '\r')

/-- A text without the white space around it. -/
def trim (cs : List Char) : List Char := ((cs.dropWhile isBlank).reverse.dropWhile isBlank).reverse

/-- The pieces of a text between its commas (R79: `b0, ..., b(n-1)`). -/
def splitCommas : List Char → List (List Char)
  | [] => [[]]
  | c :: cs =>
    match splitCommas cs with
    | [] => [[c]]
    | p :: ps => if c = ',' then [] :: p :: ps else (c :: p) :: ps

/-- The literals of a list of pieces, none if one of them is no literal. -/
def parseLiterals : List (List Char) → Option (List Nat)
  | [] => some []
  | p :: ps =>
    match parseLiteral (trim p), parseLiterals ps with
    | some v, some vs => some (v :: vs)
    | _, _ => none

/-- The operand list of a pseudo-instruction; no text is no operand, n = 0 (DESIGN CHOICE, assumption log 10). -/
def parseOperands (cs : List Char) : Option (List Nat) :=
  if cs = [] then some [] else parseLiterals (splitCommas cs)

/-- A pseudo-instruction from its name and its operands (R79). -/
def pseudoOf (name : List Char) (vs : List Nat) : Except AsmError Pseudo :=
  if name = "CRC_BLOCK".toList then .ok (.crcBlock vs)
  else if name = "DEC_BYTES".toList then .ok (.decBytes vs)
  else if name = "FRAME".toList then .ok (.frame vs)
  else if name = "RX_STREAM".toList then .ok (.rxStream vs)
  else if name = "ENC".toList then
    match vs with
    | [v] => .ok (.enc v)
    | [] => .error .missingOperand
    | _ => .error .unexpectedOperand
  else .error .unknownMnemonic

/-- One source line, none if it holds no more than a comment: "Text after `;` is a comment" (R78). An operand that is no
literal is refused as that, before its form is looked at (DESIGN CHOICE, assumption log 10). -/
def parseLine (cs : List Char) : Except AsmError (Option SourceLine) :=
  let body := trim (cs.takeWhile fun c => decide (c ≠ ';'))
  let word := body.takeWhile fun c => !isBlank c
  let rest := trim (body.dropWhile fun c => !isBlank c)
  if body = [] then .ok none
  else
    match Opcode.all.find? fun o => decide (mnemonicOf o = word) with
    | some o =>
      if rest = [] then .ok (some (.command ⟨o, none⟩))
      else
        match parseLiteral rest with
        | some v => .ok (some (.command ⟨o, some v⟩))
        | none => .error .badLiteral
    | none =>
      match parseOperands rest with
      | none => if (pseudoOf word []) = .error .unknownMnemonic then .error .unknownMnemonic else .error .badLiteral
      | some vs =>
        match pseudoOf word vs with
        | .ok p => .ok (some (.pseudo p))
        | .error e => .error e

/-- The command word of a line: the operand zero-extended in DATA[63:0], or the refusal (R78). -/
def assembleLine (l : AsmLine) : Except AsmError CmdWord :=
  match l.op.form.limit, l.operand with
  | none, none => .ok (l.op.code ++ (0 : U64))
  | none, some _ => .error .unexpectedOperand
  | some _, none => .error .missingOperand
  | some m, some v => if v ≤ m then .ok (l.op.code ++ BitVec.ofNat 64 v) else .error .operandTooLarge

/-- The expansion column of R79. -/
def expansion : Pseudo → List AsmLine
  | .crcBlock bs => ⟨.crcClr, none⟩ :: bs.map fun b => ⟨.crcByte, some b⟩
  | .enc v => ⟨.encLoad, some v⟩ :: List.replicate (varuintLen (BitVec.ofNat 64 v)) ⟨.encNext, none⟩
  | .decBytes bs => bs.map fun b => ⟨.decByte, some b⟩
  | .frame bs => ⟨.txStart, some bs.length⟩ :: (bs.map fun b => ⟨.txByte, some b⟩) ++ [⟨.txEnd, none⟩]
  | .rxStream bs => (bs.map fun b => ⟨.rxByte, some b⟩) ++ [⟨.rxEos, none⟩]

/-- Why a pseudo-instruction that is not well-formed is refused (R79, "refused when"). -/
def pseudoRefusal : Pseudo → AsmError
  | .frame bs => if Config.maxPayload < bs.length then .payloadTooLarge else .operandTooLarge
  | _ => .operandTooLarge

/-- A pseudo-instruction's commands, or the refusal (R79). -/
def expandPseudo (p : Pseudo) : Except AsmError (List AsmLine) :=
  if p.wellFormed then .ok (expansion p) else .error (pseudoRefusal p)

/-- The words of a list of core lines, or the first refusal (DESIGN CHOICE, assumption log 10). -/
def assembleLines : List AsmLine → Except AsmError (List CmdWord)
  | [] => .ok []
  | l :: ls =>
    match assembleLine l, assembleLines ls with
    | .ok w, .ok ws => .ok (w :: ws)
    | .error e, _ => .error e
    | _, .error e => .error e

/-- The words of one source line (R78, R79). -/
def assembleText (cs : List Char) : Except AsmError (List CmdWord) :=
  match parseLine cs with
  | .error e => .error e
  | .ok none => .ok []
  | .ok (some (.command l)) => assembleLines [l]
  | .ok (some (.pseudo p)) =>
    match expandPseudo p with
    | .error e => .error e
    | .ok ls => assembleLines ls

/-- The words of a source from its line n on; a refusal names its line ("It refuses, by line", R78). DESIGN CHOICE
(assumption log 10): R78 does not say whether the other lines of a source with a refused line still assemble; here such
a source gives no words, and its first refused line alone is named. -/
def assembleFrom (n : Nat) : List (List Char) → Except (Nat × AsmError) (List CmdWord)
  | [] => .ok []
  | l :: ls =>
    match assembleText l, assembleFrom (n + 1) ls with
    | .ok ws, .ok vs => .ok (ws ++ vs)
    | .error e, _ => .error (n, e)
    | _, .error e => .error e

/-- The words of a source text, one command per line, lines numbered from 1 (R78; DESIGN CHOICE, assumption log 10). -/
def assemble (lines : List (List Char)) : Except (Nat × AsmError) (List CmdWord) := assembleFrom 1 lines

/-- One hex digit. -/
def hexDigit (v : Nat) : Char := Char.ofNat (if v < 10 then 48 + v else 55 + v)

/-- The lowest n hex digits of a number, the highest first. -/
def hexDigits (n v : Nat) : List Char :=
  match n with
  | 0 => []
  | k + 1 => hexDigits k (v / 16) ++ [hexDigit (v % 16)]

/-- A word as the assembler writes it: 18 hex digits, OP first (R78). -/
def listing (w : CmdWord) : List Char :=
  hexDigits 2 (opField w).toNat ++ ' ' :: hexDigits 16 (dataField w).toNat

end Sys2Proof.Machine
end

