-- ==== Sys2Proof/Safety.lean ====
section
/-! DEFINITION. Safety.lean: the terms the statements use: the invariants of 10_state R32, the unit each command
belongs to (R34), runs of commands, and what a run's responses show. -/

namespace Sys2Proof.Machine

/-- The payload bytes of the packet being received, `RX_BUF[0..RX_CTL.CNT)` (R32). -/
def State.rxReceived (s : State) : List Byte := (List.range s.rx.cnt.toNat).map s.rxBuf.read

/-- The invariants of R32, for the state alone (what TX_CTL.CRC is the CRC of, the host's bytes say: obligation
TxCrcCoversTheBytesPassed). STATE ≠ 3 holds by type (assumption log 7). encRoom and rxBufWf are the model's own, DEDUCED
(assumption log 13): they make the conjunction one that each step keeps. -/
structure State.Inv (s : State) : Prop where
  encCount : s.enc.count.toNat ≤ 10
  encIdle : s.enc.active = false → s.enc.val = 0
  encBusy : s.enc.active = true → s.enc.count.toNat ≤ 9
  encRoom : s.enc.active = true → s.enc.val.toNat < 2 ^ (64 - 7 * s.enc.count.toNat)
  decCount : s.dec.count.toNat ≤ 9
  decAcc : s.dec.acc.toNat < 2 ^ (7 * s.dec.count.toNat)
  txBody : s.tx.state = .body → s.tx.cnt.toNat < s.tx.len.toNat
  txTrailer : s.tx.state = .trailer → s.tx.cnt = s.tx.len
  rxBody : s.rx.state = .body → s.rx.cnt.toNat < s.rx.len.toNat
  rxTrailer : s.rx.state = .crc → s.rx.cnt = s.rx.len
  rxCrc : s.rx.state ≠ .len → s.rx.crc = crc8 s.rxReceived
  rxSeen : s.rx.state ≠ .len → s.rx.seen = true
  rxBufWf : s.rxBuf.wf

/-- The block's units (00_scope glossary), and the control commands, which belong to none. -/
inductive UnitName where
  | control
  | enc
  | dec
  | crc
  | tx
  | rx
  deriving DecidableEq, Repr

/-- The unit column of the opcode map (R74). -/
def unitOf : Instr → UnitName
  | .nop | .srst | .regRd _ => .control
  | .encLoad _ | .encNext => .enc
  | .decClr | .decByte _ | .decEnd => .dec
  | .crcClr | .crcByte _ => .crc
  | .txStart _ | .txByte _ | .txEnd | .txAbort => .tx
  | .rxByte _ | .rxEos | .rxRdbuf _ => .rx

/-- Two states hold the same in the registers of a unit (R34); for RX, in RX_BUF too. -/
def sameUnit (u : UnitName) (s t : State) : Prop :=
  match u with
  | .control => True
  | .enc => s.enc = t.enc
  | .dec => s.dec = t.dec
  | .crc => s.crcAcc = t.crcAcc
  | .tx => s.tx = t.tx
  | .rx => s.rx = t.rx ∧ s.rxBuf = t.rxBuf

/-- The commands in the host's order, each complete before the next begins (R8, R60). -/
def execAll : List Instr → State → Host.Outcome State Fault Refusal
  | [], s => .next s
  | i :: is, s =>
    match exec i s with
    | .next s' => execAll is s'
    | .fault f => .fault f
    | .refused r => .refused r

/-- The bytes a run's responses put out, in order (R7 `emit`; R40 bvalid, byte). -/
def emitted (rs : List Response) : List Byte := (rs.filter (·.bvalid)).map (·.byte)

/-- The operand of a TX_BYTE. -/
def txByteOf : Instr → Option Byte
  | .txByte d => some d
  | _ => none

/-- A command that neither opens, closes nor abandons a frame: not TX_START, TX_END, TX_ABORT or SRST. -/
def keepsFrameOpen : Instr → Bool
  | .srst | .txStart _ | .txEnd | .txAbort => false
  | .nop | .regRd _ | .encLoad _ | .encNext | .decClr | .decByte _ | .decEnd | .crcClr | .crcByte _ | .txByte _
  | .rxByte _ | .rxEos | .rxRdbuf _ => true

/-- The status RX_BYTE gives on the last byte of a packet slice (R180, R185). -/
def sliceStatus (q : List Byte) : Status :=
  match unframe q with
  | .ok _ => .done
  | .error _ => .errChecksumMismatch

/-- The status RX_EOS gives at a stream's end (R181, R185). -/
def endStatus : StreamEnd → Status
  | .clean => .streamEnd
  | .truncated => .errTruncatedStream
  | .empty => .errEmptyStream

/-- The statuses R185 (b) gives the RX_BYTEs of one slice: OK but for the last. -/
def sliceStatuses (q : List Byte) : List Status := List.replicate (q.length - 1) .ok ++ [sliceStatus q]

end Sys2Proof.Machine
end

