-- ==== Sys2Proof/Certificates/Slice0/Obligations.lean ====
section
/-! DEFINITION. Obligations.lean: the statements about the model, from the spec's numbered rules. A statement that
equates exec with a whole next state is also its command's frame: what the right side does not write is unchanged. -/

open Sys2Proof Sys2Proof.Machine

/-! ### Encoding (30_encoding) -/

/-- One word of every command, written out from R70 and R74 and found in 95_test_vectors P1 to P5. -/
def Obligations.SpecWordsDecode : Prop :=
  decode 0x000000000000000000#72 = .command .nop ∧
  decode 0x010000000000000000#72 = .command .srst ∧
  decode 0x020000000000000006#72 = .command (.regRd 6) ∧
  decode 0x10000000000000012C#72 = .command (.encLoad 300) ∧
  decode 0x110000000000000000#72 = .command .encNext ∧
  decode 0x180000000000000000#72 = .command .decClr ∧
  decode 0x1900000000000000AC#72 = .command (.decByte 0xAC) ∧
  decode 0x1A0000000000000000#72 = .command .decEnd ∧
  decode 0x200000000000000000#72 = .command .crcClr ∧
  decode 0x210000000000000101#72 = .command (.crcByte 1) ∧
  decode 0x300000000000000100#72 = .command (.txStart 256) ∧
  decode 0x310000000000000031#72 = .command (.txByte 0x31) ∧
  decode 0x320000000000000000#72 = .command .txEnd ∧
  decode 0x330000000000000000#72 = .command .txAbort ∧
  decode 0x380000000000000076#72 = .command (.rxByte 0x76) ∧
  decode 0x390000000000000000#72 = .command .rxEos ∧
  decode 0x3A00000000000000FF#72 = .command (.rxRdbuf 255) ∧
  decode 0x030000000000000000#72 = .illegal 0x03

/-- Every command, with its operand at every value, is read back from its own word. -/
def Obligations.DecodeInvertsEncode : Prop := ∀ i : Instr, decode (encode i) = .command i

/-- R73: DATA bits that a form does not read change neither the state nor the response, and the assembler's are 0. -/
def Obligations.UnreadDataBitsAreIgnored : Prop :=
  (∀ (o : Opcode) (d d' : U64),
    (match o.form with
      | .none => True
      | .byte | .index => d.toNat % 256 = d'.toNat % 256
      | .u64 => d = d') →
    ∀ s : State, runWord (o.code ++ d) s = runWord (o.code ++ d') s) ∧
  (∀ (l : AsmLine) (w : CmdWord), assembleLine l = .ok w →
    match l.op.form with
    | .none => dataField w = 0
    | .byte | .index => (dataField w).toNat < 256
    | .u64 => True)

/-- R75: the 239 unassigned OP values decode to illegal, answer ERR_ILLEGAL_OP and write nothing; every other word is
a command, so the decoder is total. -/
def Obligations.IllegalOpcodesAnswerAndWriteNothing : Prop :=
  (∀ w : CmdWord,
    let op := (opField w).toNat
    let unassigned := (0x03 ≤ op ∧ op ≤ 0x0F) ∨ (0x12 ≤ op ∧ op ≤ 0x17) ∨ (0x1B ≤ op ∧ op ≤ 0x1F) ∨
      (0x22 ≤ op ∧ op ≤ 0x2F) ∨ (0x34 ≤ op ∧ op ≤ 0x37) ∨ 0x3B ≤ op
    (unassigned → decode w = .illegal (opField w) ∧
      ∀ s : State, runWord w s = .next (s.pushRsp { status := .errIllegalOp })) ∧
    (¬ unassigned → ∃ i : Instr, decode w = .command i ∧ i.opcode.code = opField w)) ∧
  ((List.range 256).filter fun n => decide (Opcode.ofCode (BitVec.ofNat 8 n) = none)).length = 239

/-- R78's placing of the operand and its four refusals. -/
def Obligations.AssemblerLinesEncodeOrAreRefused : Prop :=
  ∀ (o : Opcode) (x : Option Nat),
    ((∃ w, assembleLine ⟨o, x⟩ = .ok w) ↔
      match o.form, x with
      | .none, none => True
      | .byte, some v => v ≤ 255
      | .index, some v => v ≤ 255
      | .u64, some v => v ≤ 2 ^ 64 - 1
      | _, _ => False) ∧
    (∀ w, assembleLine ⟨o, x⟩ = .ok w → opField w = o.code ∧ (dataField w).toNat = x.getD 0)

/-- R79: each pseudo-instruction's exact expansion, what it is refused for, and the raw TX_START 256. -/
def Obligations.PseudoInstructionsExpandExactly : Prop :=
  (∀ bs : List Nat, (∀ b ∈ bs, b ≤ 255) →
    expandPseudo (.crcBlock bs) = .ok (⟨.crcClr, none⟩ :: bs.map fun b => ⟨.crcByte, some b⟩) ∧
    expandPseudo (.decBytes bs) = .ok (bs.map fun b => ⟨.decByte, some b⟩) ∧
    expandPseudo (.rxStream bs) = .ok ((bs.map fun b => ⟨.rxByte, some b⟩) ++ [⟨.rxEos, none⟩]) ∧
    (bs.length ≤ 255 → expandPseudo (.frame bs) =
      .ok (⟨.txStart, some bs.length⟩ :: (bs.map fun b => ⟨.txByte, some b⟩) ++ [⟨.txEnd, none⟩])) ∧
    (255 < bs.length → ∃ e, expandPseudo (.frame bs) = .error e)) ∧
  (∀ bs : List Nat, (∃ b ∈ bs, 255 < b) →
    (∃ e, expandPseudo (.crcBlock bs) = .error e) ∧ (∃ e, expandPseudo (.decBytes bs) = .error e) ∧
    (∃ e, expandPseudo (.rxStream bs) = .error e) ∧ (∃ e, expandPseudo (.frame bs) = .error e)) ∧
  (∀ v : Nat, (v ≤ 2 ^ 64 - 1 → expandPseudo (.enc v) =
      .ok (⟨.encLoad, some v⟩ :: List.replicate (varuintLen (BitVec.ofNat 64 v)) ⟨.encNext, none⟩)) ∧
    (2 ^ 64 - 1 < v → ∃ e, expandPseudo (.enc v) = .error e)) ∧
  (∃ w, assembleLine ⟨.txStart, some 256⟩ = .ok w ∧
    ∀ s : State, s.tx.state = .idle → runWord w s = .next (s.pushRsp { status := .errPayloadTooLarge }))

/-! ### Reset, and the step -/

/-- R41, R211, R263: the power-on values, and SRST: every register as after power-on, RX_BUF unchanged. The host's two
fields, the model's own (log 1, 2), are carried over. -/
def Obligations.ResetAndSoftResetValues : Prop :=
  (State.reset.crcAcc = 0 ∧ State.reset.enc = ⟨0, false, 0⟩ ∧ State.reset.dec = ⟨0, 0⟩ ∧
    State.reset.tx = ⟨.idle, 0, 0, 0⟩ ∧ State.reset.rx = ⟨.len, false, 0, 0, 0⟩ ∧
    ∀ i, i < 255 → State.reset.rxBuf.read i = Config.rxBufPowerOn i) ∧
  (∀ data : U64, decode (0x01#8 ++ data) = .command .srst) ∧
  (∀ s : State, exec .srst s =
    .next (({ State.reset with rxBuf := s.rxBuf, hostCmd := s.hostCmd, hostRsp := s.hostRsp } : State).pushRsp
      { status := .ok }))

/-- One step takes the host's next word and runs the command it decodes to on the machine without it, and does nothing
else; an illegal word is answered ERR_ILLEGAL_OP. The queue hostCmd is the model's (log 1). -/
def Obligations.StepRunsTheDecodedCommand : Prop :=
  ∀ (s : State) (w : CmdWord) (ws : List CmdWord), s.hostCmd = w :: ws →
    (∀ i, decode w = .command i → step s = exec i { s with hostCmd := ws }) ∧
    (∀ op, decode w = .illegal op →
      step s = .next (({ s with hostCmd := ws } : State).pushRsp { status := .errIllegalOp }))

/-- With nothing issued, the block waits: DEDUCED from R262, log 8. -/
def Obligations.StepWaitsForTheHost : Prop := ∀ s : State, s.hostCmd = [] → step s = .next s

/-- "Each command returns one response record" (R40): a step with a word issued takes that word alone and adds one
response to what the host has received (the fields are the model's, log 1, 2). -/
def Obligations.EachCommandGetsOneResponse : Prop :=
  ∀ (s t : State) (w : CmdWord) (ws : List CmdWord), s.hostCmd = w :: ws → step s = .next t →
    t.hostCmd = ws ∧ ∃ r, t.hostRsp = s.hostRsp ++ [r]

/-- No command is refused, and the one fault is RX_BYTE's write past RX_BUF's last entry (log 5), where R32 says no run
comes. -/
def Obligations.OnlyStopIsAPayloadWritePastTheBuffer : Prop :=
  ∀ (i : Instr) (s : State),
    (∀ r, exec i s ≠ .refused r) ∧
    ((∃ f, exec i s = .fault f) ↔ (∃ d, i = .rxByte d) ∧ s.rx.state = .body ∧ s.rx.cnt = 255)

/-- R275, "every command word has a defined outcome": in every state that meets the invariants. -/
def Obligations.EveryCommandWordCompletes : Prop :=
  ∀ (s : State) (w : CmdWord), s.Inv → ∃ t, runWord w s = .next t ∧ t.Inv

/-- Whatever words the host issues, the machine answers each with one response and never stops (R275, R260). The words to
be issued, hostCmd, and the responses received, hostRsp, are the model's own fields (log 1, 2). -/
def Obligations.EveryCommandSequenceIsAnswered : Prop :=
  ∀ (s : State), s.Inv →
    ∃ t : State, Host.Core.run Sys2Proof.core s.hostCmd.length s = .next t ∧ t.Inv ∧ t.hostCmd = [] ∧
      t.hostRsp.length = s.hostRsp.length + s.hostCmd.length

/-- R32 at power-on. -/
def Obligations.ResetMeetsTheInvariants : Prop := State.reset.Inv

/-- R32 (with encRoom and rxBufWf, log 13): every step keeps the invariants, from every state that meets them. -/
def Obligations.StepKeepsTheInvariants : Prop := ∀ s t : State, s.Inv → step s = .next t → t.Inv

/-! ### The units and RX_BUF -/

/-- R34, writing: a command other than SRST leaves every unit but its own as it was, and the control commands leave all
of them; none touches the words the host is still to issue. -/
def Obligations.UnitsWriteOnlyTheirOwnRegisters : Prop :=
  ∀ (i : Instr) (s t : State), i ≠ .srst → exec i s = .next t →
    (∀ u, u ≠ unitOf i → sameUnit u s t) ∧ (unitOf i = .control → ∃ r, t = s.pushRsp r) ∧ t.hostCmd = s.hostCmd

/-- R34, reading: what a unit's command answers and leaves in its unit depends on that unit's registers alone. -/
def Obligations.UnitsReadOnlyTheirOwnRegisters : Prop :=
  ∀ (i : Instr) (s s' t : State), unitOf i ≠ .control → sameUnit (unitOf i) s s' → exec i s = .next t →
    ∃ t' r, exec i s' = .next t' ∧ sameUnit (unitOf i) t t' ∧
      t.hostRsp = s.hostRsp ++ [r] ∧ t'.hostRsp = s'.hostRsp ++ [r]

/-- R57: REG_RD and RX_RDBUF change nothing, and asked again give the same response. -/
def Obligations.ReadsHaveNoSideEffects : Prop :=
  ∀ (s : State) (n : Byte) (i : Instr), i = .regRd n ∨ i = .rxRdbuf n →
    ∃ r, exec i s = .next (s.pushRsp r) ∧ exec i (s.pushRsp r) = .next ((s.pushRsp r).pushRsp r)

/-- R30: RX_BYTE in BODY writes its byte to entry RX_CTL.CNT and to no other; nothing else writes RX_BUF. -/
def Obligations.RxBufChangesOnlyAtThePayloadIndex : Prop :=
  ∀ (i : Instr) (s t : State), exec i s = .next t →
    (∀ d, i = .rxByte d → s.rx.state = .body →
      t.rxBuf.read s.rx.cnt.toNat = d ∧ ∀ a, a ≠ s.rx.cnt.toNat → t.rxBuf.read a = s.rxBuf.read a) ∧
    ((∀ d, i ≠ .rxByte d) ∨ s.rx.state ≠ .body → t.rxBuf = s.rxBuf)

/-! ### Control commands (43_control) -/

/-- R210. -/
def Obligations.NopAnswersOkAndDoesNothing : Prop :=
  (∀ data : U64, decode (0x00#8 ++ data) = .command .nop) ∧
  (∀ s : State, exec .nop s = .next (s.pushRsp { status := .ok }))

/-- R212: each register's fields at their bits, every other bit 0; ERR_RANGE for 0x07 to 0xFF; nothing written. -/
def Obligations.RegRdReadsTheRegisterFile : Prop :=
  (∀ data : U64, decode (0x02#8 ++ data) = .command (.regRd (data.extractLsb' 0 8))) ∧
  (∀ (i : Byte) (s : State),
    (6 < i.toNat → exec (.regRd i) s = .next (s.pushRsp { status := .errRange })) ∧
    (i.toNat ≤ 6 → ∃ v : U64, exec (.regRd i) s = .next (s.pushRsp { status := .ok, value := v }) ∧
      (i = 0 → v.toNat = s.crcAcc.toNat) ∧
      (i = 1 → v = s.enc.val) ∧
      (i = 2 → v.toNat = 16 * s.enc.count.toNat + s.enc.active.toNat) ∧
      (i = 3 → v = s.dec.acc) ∧
      (i = 4 → v.toNat = s.dec.count.toNat) ∧
      (i = 5 → v.toNat = 2 ^ 24 * s.tx.crc.toNat + 2 ^ 16 * s.tx.cnt.toNat + 2 ^ 8 * s.tx.len.toNat +
        (match s.tx.state with | .idle => 0 | .body => 1 | .trailer => 2)) ∧
      (i = 6 → v.toNat = 2 ^ 24 * s.rx.crc.toNat + 2 ^ 16 * s.rx.cnt.toNat + 2 ^ 8 * s.rx.len.toNat +
        4 * s.rx.seen.toNat + (match s.rx.state with | .len => 0 | .body => 1 | .crc => 2))))

/-! ### Varuint commands (40_varuint) -/

/-- R120. -/
def Obligations.EncLoadRestartsTheEncoder : Prop :=
  (∀ v : U64, decode (0x10#8 ++ v) = .command (.encLoad v)) ∧
  (∀ (v : U64) (s : State), exec (.encLoad v) s =
    .next (({ s with enc := ⟨v, true, 0⟩ } : State).pushRsp { status := .ok }))

/-- R121, with COUNT ≤ 9 while ACTIVE, as R32 has it: the low group with the continuation bit while more remains. -/
def Obligations.EncNextEmitsTheNextGroup : Prop :=
  (∀ data : U64, decode (0x11#8 ++ data) = .command .encNext) ∧
  (∀ s : State, s.enc.active = false → exec .encNext s = .next (s.pushRsp { status := .errSequence })) ∧
  (∀ s : State, s.enc.active = true → s.enc.count.toNat ≤ 9 →
    ∃ (e : EncUnit) (r : Response), exec .encNext s = .next (({ s with enc := e } : State).pushRsp r) ∧
      e.count.toNat = s.enc.count.toNat + 1 ∧ r.count.toNat = s.enc.count.toNat + 1 ∧
      r.bvalid = true ∧ r.value = 0 ∧
      (128 ≤ s.enc.val.toNat → r.status = .ok ∧ r.byte.toNat = 128 + s.enc.val.toNat % 128 ∧
        e.val.toNat = s.enc.val.toNat / 128 ∧ e.active = true) ∧
      (s.enc.val.toNat < 128 → r.status = .done ∧ r.byte.toNat = s.enc.val.toNat ∧ e.val = 0 ∧ e.active = false))

/-- R130 and R132: both clear the decoder; DEC_END always answers ERR_MALFORMED_VARUINT with the bytes discarded. -/
def Obligations.DecClrAndDecEndClearTheDecoder : Prop :=
  (∀ data : U64, decode (0x18#8 ++ data) = .command .decClr ∧ decode (0x1A#8 ++ data) = .command .decEnd) ∧
  (∀ s : State, exec .decClr s = .next (({ s with dec := ⟨0, 0⟩ } : State).pushRsp { status := .ok })) ∧
  (∀ s : State, exec .decEnd s = .next (({ s with dec := ⟨0, 0⟩ } : State).pushRsp
    { status := .errMalformedVaruint, count := BitVec.ofNat 8 s.dec.count.toNat }))

/-- R131, with COUNT ≤ 9 as R32 has it: a tenth byte above 1 fails and clears the unit; any other byte adds its group
at bit 7k, and ends the value when its bit 7 is clear. -/
def Obligations.DecByteAddsAGroupOrFails : Prop :=
  (∀ data : U64, decode (0x19#8 ++ data) = .command (.decByte (data.extractLsb' 0 8))) ∧
  (∀ (d : Byte) (s : State), s.dec.count.toNat ≤ 9 →
    let k := s.dec.count.toNat
    let acc := s.dec.acc ||| (BitVec.ofNat 64 (d.toNat % 128) <<< (7 * k))
    (k = 9 ∧ 2 ≤ d.toNat → exec (.decByte d) s = .next (({ s with dec := ⟨0, 0⟩ } : State).pushRsp
      { status := .errMalformedVaruint, count := 10 })) ∧
    (k ≤ 8 ∧ 128 ≤ d.toNat → exec (.decByte d) s =
      .next (({ s with dec := ⟨acc, BitVec.ofNat 4 (k + 1)⟩ } : State).pushRsp
        { status := .ok, count := BitVec.ofNat 8 (k + 1) })) ∧
    ((k ≤ 8 ∧ d.toNat < 128) ∨ (k = 9 ∧ d.toNat ≤ 1) → exec (.decByte d) s =
      .next (({ s with dec := ⟨0, 0⟩ } : State).pushRsp
        { status := .done, value := acc, count := BitVec.ofNat 8 (k + 1) })))

/-! ### CRC commands (41_crc8) -/

/-- R145 and R146. -/
def Obligations.CrcCommandsSetTheAccumulator : Prop :=
  (∀ data : U64, decode (0x20#8 ++ data) = .command .crcClr ∧
    decode (0x21#8 ++ data) = .command (.crcByte (data.extractLsb' 0 8))) ∧
  (∀ s : State, exec .crcClr s = .next (({ s with crcAcc := 0 } : State).pushRsp { status := .ok })) ∧
  (∀ (d : Byte) (s : State), exec (.crcByte d) s =
    .next (({ s with crcAcc := crcStep s.crcAcc d } : State).pushRsp
      { status := .ok, value := BitVec.ofNat 64 (crcStep s.crcAcc d).toNat }))

/-! ### Framer commands (42_framer) -/

/-- R170, with R234's order of its two errors. -/
def Obligations.TxStartOpensAFrameOrIsRefused : Prop :=
  (∀ n : U64, decode (0x30#8 ++ n) = .command (.txStart n)) ∧
  (∀ (n : U64) (s : State),
    (s.tx.state ≠ .idle → exec (.txStart n) s = .next (s.pushRsp { status := .errSequence })) ∧
    (s.tx.state = .idle → 255 < n.toNat →
      exec (.txStart n) s = .next (s.pushRsp { status := .errPayloadTooLarge })) ∧
    (s.tx.state = .idle → n.toNat ≤ 255 →
      exec (.txStart n) s =
        .next (({ s with tx := ⟨if n = 0 then .trailer else .body, BitVec.ofNat 8 n.toNat, 0, 0⟩ } : State).pushRsp
          { status := .ok, bvalid := true, byte := BitVec.ofNat 8 n.toNat, count := BitVec.ofNat 8 n.toNat })))

/-- R171, with CNT < LEN in BODY, as R32 has it. -/
def Obligations.TxBytePassesOnePayloadByte : Prop :=
  (∀ data : U64, decode (0x31#8 ++ data) = .command (.txByte (data.extractLsb' 0 8))) ∧
  (∀ (d : Byte) (s : State),
    (s.tx.state ≠ .body → exec (.txByte d) s = .next (s.pushRsp { status := .errSequence })) ∧
    (s.tx.state = .body → s.tx.cnt.toNat < s.tx.len.toNat →
      ∃ c : Byte, c.toNat = s.tx.cnt.toNat + 1 ∧
        exec (.txByte d) s =
          .next (({ s with tx := ⟨if c = s.tx.len then .trailer else .body, s.tx.len, c,
            crcStep s.tx.crc d⟩ } : State).pushRsp { status := .ok, bvalid := true, byte := d, count := c })))

/-- R172. -/
def Obligations.TxEndEmitsTheTrailer : Prop :=
  (∀ data : U64, decode (0x32#8 ++ data) = .command .txEnd) ∧
  (∀ s : State,
    (s.tx.state ≠ .trailer → exec .txEnd s = .next (s.pushRsp { status := .errSequence })) ∧
    (s.tx.state = .trailer → exec .txEnd s =
      .next (({ s with tx := ⟨.idle, s.tx.len, s.tx.cnt, s.tx.crc⟩ } : State).pushRsp
        { status := .done, bvalid := true, byte := s.tx.crc, value := BitVec.ofNat 64 s.tx.crc.toNat,
          count := s.tx.len })))

/-- R173: legal in every state. -/
def Obligations.TxAbortAbandonsTheFrame : Prop :=
  (∀ data : U64, decode (0x33#8 ++ data) = .command .txAbort) ∧
  (∀ s : State, exec .txAbort s =
    .next (({ s with tx := ⟨.idle, 0, 0, 0⟩ } : State).pushRsp { status := .ok, count := s.tx.cnt }))

/-! ### Deframer commands (42_framer) -/

/-- R180: a length byte, a payload byte (CNT < LEN in BODY, as R32 has it), a right trailer, a wrong trailer. -/
def Obligations.RxByteTakesLengthPayloadOrTrailer : Prop :=
  (∀ data : U64, decode (0x38#8 ++ data) = .command (.rxByte (data.extractLsb' 0 8))) ∧
  (∀ (d : Byte) (s : State),
    (s.rx.state = .len → exec (.rxByte d) s =
      .next (({ s with rx := ⟨if d = 0 then .crc else .body, true, d, 0, 0⟩ } : State).pushRsp
        { status := .ok, count := d })) ∧
    (s.rx.state = .body → s.rx.cnt.toNat < s.rx.len.toNat →
      ∃ (k : Byte) (m : Memory), k.toNat = s.rx.cnt.toNat + 1 ∧
        m.read s.rx.cnt.toNat = d ∧ (∀ a, a ≠ s.rx.cnt.toNat → m.read a = s.rxBuf.read a) ∧
        exec (.rxByte d) s =
          .next (({ s with
            rx := ⟨if k = s.rx.len then .crc else .body, true, s.rx.len, k, crcStep s.rx.crc d⟩
            rxBuf := m } : State).pushRsp { status := .ok, count := k })) ∧
    (s.rx.state = .crc → d = s.rx.crc → exec (.rxByte d) s =
      .next (({ s with rx := ⟨.len, true, s.rx.len, s.rx.cnt, s.rx.crc⟩ } : State).pushRsp
        { status := .done, value := BitVec.ofNat 64 s.rx.crc.toNat, count := s.rx.len })) ∧
    (s.rx.state = .crc → d ≠ s.rx.crc → exec (.rxByte d) s =
      .next (({ s with rx := ⟨.len, true, s.rx.len, s.rx.cnt, s.rx.crc⟩ } : State).pushRsp
        { status := .errChecksumMismatch, value := BitVec.ofNat 64 (256 * d.toNat + s.rx.crc.toNat),
          count := s.rx.len })))

/-- R181: the three ends of a stream. -/
def Obligations.RxEosReportsHowTheStreamEnded : Prop :=
  (∀ data : U64, decode (0x39#8 ++ data) = .command .rxEos) ∧
  (∀ s : State,
    (s.rx.state = .len → s.rx.seen = true → exec .rxEos s =
      .next (({ s with rx := ⟨.len, false, s.rx.len, s.rx.cnt, s.rx.crc⟩ } : State).pushRsp
        { status := .streamEnd })) ∧
    (s.rx.state = .len → s.rx.seen = false →
      exec .rxEos s = .next (s.pushRsp { status := .errEmptyStream })) ∧
    (s.rx.state ≠ .len → exec .rxEos s =
      .next (({ s with rx := ⟨.len, false, s.rx.len, s.rx.cnt, s.rx.crc⟩ } : State).pushRsp
        { status := .errTruncatedStream, value := if s.rx.state = .body then 1 else 2, count := s.rx.cnt })))

/-- R182: the entry's byte (for one nothing has written, its power-on draw, R41), or ERR_RANGE for 255. -/
def Obligations.RxRdbufReadsAnEntry : Prop :=
  (∀ data : U64, decode (0x3A#8 ++ data) = .command (.rxRdbuf (data.extractLsb' 0 8))) ∧
  (∀ (i : Byte) (s : State),
    (i.toNat ≤ 254 → exec (.rxRdbuf i) s =
      .next (s.pushRsp { status := .ok, value := BitVec.ofNat 64 (s.rxBuf.read i.toNat).toNat })) ∧
    (i = 255 → exec (.rxRdbuf i) s = .next (s.pushRsp { status := .errRange })))

/-! ### The CRC function (41_crc8) -/

/-- R142 (a): one step depends on c XOR d alone, and the 256 results are the table the spec prints. -/
def Obligations.CrcStepIsTheSpecTable : Prop :=
  ∀ c d : Byte, crcTable[(c ^^^ d).toNat]? = some (crcStep c d)

/-- R142 (c): the residue of a string followed by its own CRC. -/
def Obligations.CrcResidueIsZero : Prop := ∀ s : List Byte, crc8 (s ++ [crc8 s]) = 0

/-- R142 (d): linearity over XOR, for strings of equal length. -/
def Obligations.CrcIsLinear : Prop :=
  ∀ a b : List Byte, a.length = b.length → crc8 (List.zipWith (· ^^^ ·) a b) = crc8 a ^^^ crc8 b

/-- R142 (e): any change confined to one byte changes the CRC. -/
def Obligations.CrcDetectsAnyOneByteChange : Prop :=
  ∀ (s : List Byte) (j : Nat) (x : Byte), j < s.length → x ≠ 0 → crc8 (s.modify j (· ^^^ x)) ≠ crc8 s

/-! ### The varuint functions (40_varuint) -/

/-- R107: the round trip, whatever bytes follow. -/
def Obligations.VaruintRoundTrip : Prop :=
  ∀ (v : U64) (t : List Byte), varuintDecode (varuintEncode v ++ t) = .ok (v, varuintLen v)

/-- R102: the closed forms of the length; bitlen(v) is Nat.log2 v + 1 for v ≥ 1. -/
def Obligations.VaruintLengthClosedForm : Prop :=
  ∀ v : U64, varuintLen v = (varuintEncode v).length ∧
    (v = 0 → varuintLen v = 1) ∧
    (v ≠ 0 → varuintLen v = (Nat.log2 v.toNat + 1 + 6) / 7) ∧
    (∀ k, 1 ≤ k → k ≤ 9 → 2 ^ (7 * (k - 1)) ≤ v.toNat → v.toNat < 2 ^ (7 * k) → varuintLen v = k) ∧
    (2 ^ 63 ≤ v.toNat → varuintLen v = 10)

/-- R103: no superfluous last byte, and no shorter string decodes to the value. -/
def Obligations.VaruintEncodingIsMinimal : Prop :=
  (∀ v : U64, (varuintEncode v).getLast? = some 0 → varuintEncode v = [0]) ∧
  (∀ (s : List Byte) (v : U64) (n : Nat), varuintDecode s = .ok (v, n) → varuintLen v ≤ s.length)

/-- R104 to R106: after nine continuation bytes the legal tenth bytes are exactly 0x00 and 0x01; a string that runs out
before a terminator fails; a terminator within nine bytes always ends a value, so encodings that are not minimal are
accepted within ten bytes (the acceptance is the spec's choice D11, 93 I1: this statement assumes it). -/
def Obligations.VaruintTenthByteLimits : Prop :=
  (∀ g : List Byte, g.length = 9 → (∀ b ∈ g, 128 ≤ b.toNat) → ∀ (b : Byte) (t : List Byte),
    (b = 0 ∨ b = 1 → ∃ v, varuintDecode (g ++ b :: t) = .ok (v, 10)) ∧
    (2 ≤ b.toNat → varuintDecode (g ++ b :: t) = .error .malformedVaruint)) ∧
  (∀ g : List Byte, (∀ b ∈ g, 128 ≤ b.toNat) → varuintDecode g = .error .malformedVaruint) ∧
  (∀ g : List Byte, g.length ≤ 8 → (∀ b ∈ g, 128 ≤ b.toNat) → ∀ (b : Byte) (t : List Byte), b.toNat < 128 →
    ∃ v, varuintDecode (g ++ b :: t) = .ok (v, g.length + 1)) ∧
  (∀ (k : Nat) (t : List Byte), k ≤ 9 →
    varuintDecode (List.replicate k 0x80 ++ 0x00 :: t) = .ok (0, k + 1)) ∧
  (∀ t : List Byte, varuintDecode (List.replicate 10 0x80 ++ t) = .error .malformedVaruint)

/-! ### Commands against the reference functions -/

/-- R110 (a): ENC_LOAD and varuint_len(v) ENC_NEXTs emit varuint_encode(v); one more is ERR_SEQUENCE. -/
def Obligations.EncoderCommandsEmitTheEncoding : Prop :=
  ∀ (s : State) (v : U64), ∃ (t : State) (rs : List Response),
    execAll (.encLoad v :: List.replicate (varuintLen v) .encNext) s = .next t ∧
    t = { s with
      enc := ⟨0, false, BitVec.ofNat 4 (varuintLen v)⟩
      hostRsp := s.hostRsp ++ { status := .ok } :: rs } ∧
    emitted rs = varuintEncode v ∧
    rs.map (·.status) = List.replicate (varuintLen v - 1) .ok ++ [.done] ∧
    exec .encNext t = .next (t.pushRsp { status := .errSequence })

/-- R110 (b): DEC_BYTE per byte until the first status that is not OK, else DEC_END, answers as varuint_decode does.
With COUNT 0, DEC_ACC is 0 by R32 (DEC_ACC < 2^(7·COUNT)). -/
def Obligations.DecoderCommandsAnswerTheDecoding : Prop :=
  ∀ (s : State) (bs : List Byte), s.dec = ⟨0, 0⟩ →
    (∀ v n, varuintDecode bs = .ok (v, n) → ∃ rs : List Response,
      execAll ((bs.take n).map .decByte) s =
        .next { s with hostRsp := s.hostRsp ++ rs ++
          [{ status := .done, value := v, count := BitVec.ofNat 8 n }] } ∧
      rs.map (·.status) = List.replicate (n - 1) .ok) ∧
    (varuintDecode bs = .error .malformedVaruint → 10 ≤ bs.length → ∃ rs : List Response,
      execAll ((bs.take 10).map .decByte) s =
        .next { s with hostRsp := s.hostRsp ++ rs ++ [{ status := .errMalformedVaruint, count := 10 }] } ∧
      rs.map (·.status) = List.replicate 9 .ok) ∧
    (varuintDecode bs = .error .malformedVaruint → bs.length < 10 → ∃ rs : List Response,
      execAll (bs.map .decByte ++ [.decEnd]) s =
        .next { s with hostRsp := s.hostRsp ++ rs ++
          [{ status := .errMalformedVaruint, count := BitVec.ofNat 8 bs.length }] } ∧
      rs.map (·.status) = List.replicate bs.length .ok)

/-- R133: after DONE or ERR_MALFORMED_VARUINT the decoder is clear, so varuints sent back to back are decoded by
DEC_BYTE alone, one DONE each. -/
def Obligations.BackToBackVaruintsDecode : Prop :=
  (∀ (i : Instr) (s t : State) (r : Response), unitOf i = .dec → exec i s = .next t →
    t.hostRsp = s.hostRsp ++ [r] → r.status = .done ∨ r.status = .errMalformedVaruint → t.dec = ⟨0, 0⟩) ∧
  (∀ (vs : List U64) (s : State), s.dec = ⟨0, 0⟩ → ∃ rs : List Response,
    execAll ((vs.flatMap varuintEncode).map .decByte) s = .next { s with hostRsp := s.hostRsp ++ rs } ∧
    (∀ r ∈ rs, r.status = .ok ∨ r.status = .done) ∧
    (rs.filter fun r => decide (r.status = .done)).map (·.value) = vs)

/-- R143: CRC_CLR and a CRC_BYTE per byte compute crc8, from every state; REG_RD 0 then reads it. -/
def Obligations.CrcCommandsComputeCrc8 : Prop :=
  ∀ (s : State) (bs : List Byte), ∃ (t : State) (rs : List Response),
    execAll (.crcClr :: bs.map .crcByte) s = .next t ∧
    t = { s with crcAcc := crc8 bs, hostRsp := s.hostRsp ++ { status := .ok } :: rs } ∧
    rs.length = bs.length ∧ (∀ r ∈ rs, r.status = .ok) ∧
    (bs ≠ [] → (rs.getLast?.map (·.value)) = some ((crc8 bs).setWidth 64)) ∧
    exec (.regRd 0) t = .next (t.pushRsp { status := .ok, value := (crc8 bs).setWidth 64 })

/-- R185 (a): TX_START, a TX_BYTE per payload byte and TX_END emit frame(p); a payload above 255 bytes is refused at
TX_START, as frame is. -/
def Obligations.FramerCommandsEmitTheFrame : Prop :=
  ∀ (s : State) (p : List Byte) (n : U64), s.tx.state = .idle → n.toNat = p.length →
    (p.length ≤ 255 → ∃ (u : TxUnit) (rs : List Response),
      execAll (.txStart n :: p.map .txByte ++ [.txEnd]) s =
        .next { s with tx := u, hostRsp := s.hostRsp ++ rs } ∧
      u.state = .idle ∧ frame p = .ok (emitted rs) ∧
      rs.map (·.status) = List.replicate (p.length + 1) .ok ++ [.done]) ∧
    (255 < p.length → frame p = .error .payloadTooLarge ∧
      exec (.txStart n) s = .next (s.pushRsp { status := .errPayloadTooLarge }))

/-- R185 (b), the responses: a RX_BYTE per byte of the stream and RX_EOS report the slices of splitStream, each on its
last byte, and how the stream ended. -/
def Obligations.DeframerCommandsReportTheSlices : Prop :=
  ∀ (s : State) (bs : List Byte), s.rx.state = .len → s.rx.seen = false →
    ∃ (t : State) (rs : List Response) (e : Response),
      execAll (bs.map .rxByte ++ [.rxEos]) s = .next t ∧
      t.hostRsp = s.hostRsp ++ rs ++ [e] ∧
      rs.map (·.status) = (splitStream bs).1.flatMap sliceStatuses ++
        List.replicate (bs.length - (splitStream bs).1.flatten.length) .ok ∧
      (rs.filter fun r => decide (r.status ≠ .ok)).map (·.count) = (splitStream bs).1.map (·.headD 0) ∧
      e.status = endStatus (splitStream bs).2 ∧
      t.rx.state = .len ∧ t.rx.seen = false

/-- R185 (b), the buffer, and R271: a packet received from LEN leaves its payload in RX_BUF[0 .. L-1] and the other
entries alone, and is accepted exactly when its trailer is the CRC of that payload. -/
def Obligations.ReceivedPacketFillsRxBuf : Prop :=
  ∀ (s : State) (p : List Byte) (b : Byte), s.rx.state = .len → p.length ≤ 255 →
    ∃ (t : State) (rs : List Response) (r : Response),
      execAll ((BitVec.ofNat 8 p.length :: p ++ [b]).map .rxByte) s = .next t ∧
      t.hostRsp = s.hostRsp ++ rs ++ [r] ∧
      r.count.toNat = p.length ∧ (r.status = .done ↔ b = crc8 p) ∧
      (b ≠ crc8 p → r.status = .errChecksumMismatch) ∧
      (∀ k (h : k < p.length), t.rxBuf.read k = p[k]) ∧
      (∀ a, p.length ≤ a → t.rxBuf.read a = s.rxBuf.read a) ∧
      t.rx.state = .len

/-! ### Framing laws (42_framer R163, R165) -/

/-- R165 (a). -/
def Obligations.UnframeOfFrame : Prop :=
  ∀ p : List Byte, p.length ≤ 255 →
    ∃ f, frame p = .ok f ∧ unframe f = .ok ⟨BitVec.ofNat 8 p.length, p, crc8 p⟩

/-- R165 (b). -/
def Obligations.SplitStreamOfFrames : Prop :=
  ∀ ps fs : List (List Byte), ps ≠ [] → ps.map frame = fs.map Except.ok →
    splitStream fs.flatten = (fs, .clean)

/-- R165 (c): any change of one payload byte or of the trailer of a frame fails its unframing. -/
def Obligations.OneByteChangeFailsUnframe : Prop :=
  ∀ (p f : List Byte) (j : Nat) (x : Byte), frame p = .ok f → 1 ≤ j → j < f.length → x ≠ 0 →
    unframe (f.modify j (· ^^^ x)) = .error .checksumMismatch

/-- R165 (d), and R163: the slices are a prefix of the stream, all of it at a clean end; each slice has its length
byte's number of bytes and two more, and its unframing fails only with ChecksumMismatch. -/
def Obligations.SlicesCoverAPrefixOfTheStream : Prop :=
  ∀ s : List Byte, (splitStream s).1.flatten <+: s ∧
    ((splitStream s).2 = .clean → (splitStream s).1.flatten = s) ∧
    (∀ q ∈ (splitStream s).1, q.length = (q.headD 0).toNat + 2 ∧
      ((∃ pk, unframe q = .ok pk) ∨ unframe q = .error .checksumMismatch))

/-! ### Status codes and errors (60_exceptions) -/

/-- R230: the numbers, and the error bit. -/
def Obligations.StatusCodesAreTheSpecNumbers : Prop :=
  (Status.ok.code = 0x0 ∧ Status.done.code = 0x1 ∧ Status.streamEnd.code = 0x2 ∧
    Status.errMalformedVaruint.code = 0x8 ∧ Status.errChecksumMismatch.code = 0x9 ∧
    Status.errTruncatedStream.code = 0xA ∧ Status.errPayloadTooLarge.code = 0xB ∧
    Status.errEmptyStream.code = 0xC ∧ Status.errSequence.code = 0xD ∧ Status.errRange.code = 0xE ∧
    Status.errIllegalOp.code = 0xF) ∧
  (∀ st : Status, st.isError = true ↔ st.code.getLsbD 3 = true) ∧
  (∀ st : Status, ¬ (3 ≤ st.code.toNat ∧ st.code.toNat ≤ 7))

/-- R231: each error's cause, what its response records and what is written alongside, for every command word. -/
def Obligations.EveryErrorHasItsListedCause : Prop :=
  ∀ (w : CmdWord) (s t : State) (r : Response), runWord w s = .next t → t.hostRsp = s.hostRsp ++ [r] →
    match r.status with
    | .errMalformedVaruint =>
      t = ({ s with dec := ⟨0, 0⟩ } : State).pushRsp r ∧
      ((decode w = .command .decEnd ∧ r = { status := .errMalformedVaruint, count := s.dec.count.setWidth 8 }) ∨
        (∃ d : Byte, decode w = .command (.decByte d) ∧ s.dec.count = 9 ∧ 2 ≤ d.toNat ∧
          r = { status := .errMalformedVaruint, count := 10 }))
    | .errChecksumMismatch =>
      ∃ d : Byte, decode w = .command (.rxByte d) ∧ s.rx.state = .crc ∧ d ≠ s.rx.crc ∧
        r = { status := .errChecksumMismatch, value := (d ++ s.rx.crc).setWidth 64, count := s.rx.len } ∧
        t = ({ s with rx := { s.rx with state := .len, seen := true } } : State).pushRsp r
    | .errTruncatedStream =>
      decode w = .command .rxEos ∧ s.rx.state ≠ .len ∧
        r = { status := .errTruncatedStream, value := s.rx.state.code.setWidth 64, count := s.rx.cnt } ∧
        t = ({ s with rx := { s.rx with state := .len, seen := false } } : State).pushRsp r
    | .errPayloadTooLarge =>
      (∃ n : U64, decode w = .command (.txStart n) ∧ s.tx.state = .idle ∧ 255 < n.toNat) ∧
        t = s.pushRsp { status := .errPayloadTooLarge }
    | .errEmptyStream =>
      decode w = .command .rxEos ∧ s.rx.state = .len ∧ s.rx.seen = false ∧
        t = s.pushRsp { status := .errEmptyStream }
    | .errSequence =>
      ((decode w = .command .encNext ∧ s.enc.active = false) ∨
        (∃ n, decode w = .command (.txStart n) ∧ s.tx.state ≠ .idle) ∨
        (∃ d, decode w = .command (.txByte d) ∧ s.tx.state ≠ .body) ∨
        (decode w = .command .txEnd ∧ s.tx.state ≠ .trailer)) ∧
        t = s.pushRsp { status := .errSequence }
    | .errRange =>
      ((∃ i : Byte, decode w = .command (.regRd i) ∧ 6 < i.toNat) ∨
        (∃ i : Byte, decode w = .command (.rxRdbuf i) ∧ 254 < i.toNat)) ∧
        t = s.pushRsp { status := .errRange }
    | .errIllegalOp =>
      (∀ o : Opcode, o.code ≠ opField w) ∧ t = s.pushRsp { status := .errIllegalOp }
    | .ok | .done | .streamEnd => True

/-- R71: the fields of the packed response at their bits. -/
def Obligations.PackedResponseHasItsFields : Prop :=
  ∀ r : Response, r.pack.extractLsb' 81 4 = r.status.code ∧ r.pack.extractLsb' 80 1 = BitVec.ofBool r.bvalid ∧
    r.pack.extractLsb' 72 8 = r.byte ∧ r.pack.extractLsb' 8 64 = r.value ∧ r.pack.extractLsb' 0 8 = r.count

/-! ### Rules over the whole machine -/

/-- R61: RX_BYTE reports a packet only on its trailer byte, with every payload byte in RX_BUF, and reports DONE exactly
when that byte is the CRC of what RX_BUF holds. -/
def Obligations.PacketIsReportedOnlyWhenComplete : Prop :=
  ∀ (s t : State) (d : Byte) (r : Response), s.Inv → exec (.rxByte d) s = .next t →
    t.hostRsp = s.hostRsp ++ [r] → r.status ≠ .ok →
    s.rx.state = .crc ∧ s.rx.cnt = s.rx.len ∧ r.count = s.rx.len ∧
      (r.status = .done ∨ r.status = .errChecksumMismatch) ∧
      (r.status = .done ↔ d = crc8 ((List.range r.count.toNat).map t.rxBuf.read))

/-- R32's clause on TX_CTL.CRC, with CNT and STATE: in a frame opened by TX_START n, whatever other commands come
between, the register covers the payload bytes passed, the first n of the TX_BYTEs. -/
def Obligations.TxCrcCoversTheBytesPassed : Prop :=
  ∀ (s t : State) (n : U64) (cs : List Instr), s.tx.state = .idle → n.toNat ≤ 255 →
    (∀ c ∈ cs, keepsFrameOpen c = true) → execAll (.txStart n :: cs) s = .next t →
    let p := (cs.filterMap txByteOf).take n.toNat
    t.tx = ⟨if p.length = n.toNat then .trailer else .body, BitVec.ofNat 8 n.toNat, BitVec.ofNat 8 p.length, crc8 p⟩
end

