-- ==== Sys2Proof/Laws/PerInstr.lean ====
section
/-! SUPPORT. Laws/PerInstr.lean: the statement made of every constructor of Instr: its word carries its row's code in
OP and its operand, zero-extended, in DATA (30_encoding R70, R74, R78). -/

namespace Sys2Proof.Laws.EncodeFields

/-- The fields of a command's word. -/
def Statement (i : Instr) : Prop := opField (encode i) = i.opcode.code ∧ dataField (encode i) = i.data

/-- The two fields of a joined word. -/
theorem fields_append (op : Byte) (data : U64) :
    opField (op ++ data) = op ∧ dataField (op ++ data) = data := by
  constructor
  · apply BitVec.eq_of_getLsbD_eq
    intro k hk
    simpa [opField, hk] using (BitVec.getLsbD_append (x := op) (y := data) (i := 64 + k)).trans (by simp [hk])
  · apply BitVec.eq_of_getLsbD_eq
    intro k hk
    simpa [dataField, hk] using BitVec.getLsbD_append (x := op) (y := data) (i := k)

theorem nop : Statement .nop := fields_append _ _
theorem srst : Statement .srst := fields_append _ _
theorem regRd (i : Byte) : Statement (.regRd i) := fields_append _ _
theorem encLoad (v : U64) : Statement (.encLoad v) := fields_append _ _
theorem encNext : Statement .encNext := fields_append _ _
theorem decClr : Statement .decClr := fields_append _ _
theorem decByte (d : Byte) : Statement (.decByte d) := fields_append _ _
theorem decEnd : Statement .decEnd := fields_append _ _
theorem crcClr : Statement .crcClr := fields_append _ _
theorem crcByte (d : Byte) : Statement (.crcByte d) := fields_append _ _
theorem txStart (n : U64) : Statement (.txStart n) := fields_append _ _
theorem txByte (d : Byte) : Statement (.txByte d) := fields_append _ _
theorem txEnd : Statement .txEnd := fields_append _ _
theorem txAbort : Statement .txAbort := fields_append _ _
theorem rxByte (d : Byte) : Statement (.rxByte d) := fields_append _ _
theorem rxEos : Statement .rxEos := fields_append _ _
theorem rxRdbuf (i : Byte) : Statement (.rxRdbuf i) := fields_append _ _

end Sys2Proof.Laws.EncodeFields
end

