-- ==== Sys2Proof/Laws/Decode.lean ====
section
/-! SUPPORT. Laws/Decode.lean: the opcode map as a lookup, and what a joined word decodes to. -/

namespace Sys2Proof

/-- No two rows of the opcode map share a code (R74). -/
theorem Opcode.all_codes_differ : Opcode.all.Pairwise fun a b => a.code ≠ b.code := by decide

theorem Opcode.mem_all (o : Opcode) : o ∈ Opcode.all := by cases o <;> decide

@[simp] theorem Opcode.ofCode_code (o : Opcode) : Opcode.ofCode o.code = some o := by cases o <;> decide

theorem Opcode.ofCode_eq_some {op : Byte} {o : Opcode} (h : Opcode.ofCode op = some o) : o.code = op := by
  simpa using List.find?_some h

theorem Opcode.ofCode_eq_none {op : Byte} : Opcode.ofCode op = none ↔ ∀ o : Opcode, o.code ≠ op := by
  simp [Opcode.ofCode, Opcode.mem_all]

/-- A word made of a row's code and any DATA decodes to that row with its operand read from DATA (R70, R74). -/
theorem decode_append (o : Opcode) (data : U64) : decode (o.code ++ data) = .command (o.toInstr data) := by
  have h := Laws.EncodeFields.fields_append o.code data
  simp only [decode, h.1, h.2, Opcode.ofCode_code]

/-- A command decoded from a word is of the row its OP names, with its operand read from the word's DATA. -/
theorem decode_eq_command {w : CmdWord} {i : Instr} (h : decode w = .command i) :
    ∃ o, Opcode.ofCode (opField w) = some o ∧ i = o.toInstr (dataField w) := by
  unfold decode at h
  split at h
  · next o ho => exact ⟨o, ho, (Decoded.command.inj h).symm⟩
  · nomatch h

end Sys2Proof
end

