-- ==== Sys2Proof/Laws/State.lean ====
section
/-! SUPPORT. Laws/State.lean: what each update of the state leaves in each field, and the fields after reset. -/

namespace Sys2Proof.Machine

@[simp] theorem State.setCrc_crcAcc (s : State) (c : Byte) : (s.setCrc c).crcAcc = c := rfl
@[simp] theorem State.setCrc_enc (s : State) (c : Byte) : (s.setCrc c).enc = s.enc := rfl
@[simp] theorem State.setCrc_dec (s : State) (c : Byte) : (s.setCrc c).dec = s.dec := rfl
@[simp] theorem State.setCrc_tx (s : State) (c : Byte) : (s.setCrc c).tx = s.tx := rfl
@[simp] theorem State.setCrc_rx (s : State) (c : Byte) : (s.setCrc c).rx = s.rx := rfl
@[simp] theorem State.setCrc_rxBuf (s : State) (c : Byte) : (s.setCrc c).rxBuf = s.rxBuf := rfl
@[simp] theorem State.setCrc_hostCmd (s : State) (c : Byte) : (s.setCrc c).hostCmd = s.hostCmd := rfl
@[simp] theorem State.setCrc_hostRsp (s : State) (c : Byte) : (s.setCrc c).hostRsp = s.hostRsp := rfl

@[simp] theorem State.setEnc_crcAcc (s : State) (u : EncUnit) : (s.setEnc u).crcAcc = s.crcAcc := rfl
@[simp] theorem State.setEnc_enc (s : State) (u : EncUnit) : (s.setEnc u).enc = u := rfl
@[simp] theorem State.setEnc_dec (s : State) (u : EncUnit) : (s.setEnc u).dec = s.dec := rfl
@[simp] theorem State.setEnc_tx (s : State) (u : EncUnit) : (s.setEnc u).tx = s.tx := rfl
@[simp] theorem State.setEnc_rx (s : State) (u : EncUnit) : (s.setEnc u).rx = s.rx := rfl
@[simp] theorem State.setEnc_rxBuf (s : State) (u : EncUnit) : (s.setEnc u).rxBuf = s.rxBuf := rfl
@[simp] theorem State.setEnc_hostCmd (s : State) (u : EncUnit) : (s.setEnc u).hostCmd = s.hostCmd := rfl
@[simp] theorem State.setEnc_hostRsp (s : State) (u : EncUnit) : (s.setEnc u).hostRsp = s.hostRsp := rfl

@[simp] theorem State.setDec_crcAcc (s : State) (u : DecUnit) : (s.setDec u).crcAcc = s.crcAcc := rfl
@[simp] theorem State.setDec_enc (s : State) (u : DecUnit) : (s.setDec u).enc = s.enc := rfl
@[simp] theorem State.setDec_dec (s : State) (u : DecUnit) : (s.setDec u).dec = u := rfl
@[simp] theorem State.setDec_tx (s : State) (u : DecUnit) : (s.setDec u).tx = s.tx := rfl
@[simp] theorem State.setDec_rx (s : State) (u : DecUnit) : (s.setDec u).rx = s.rx := rfl
@[simp] theorem State.setDec_rxBuf (s : State) (u : DecUnit) : (s.setDec u).rxBuf = s.rxBuf := rfl
@[simp] theorem State.setDec_hostCmd (s : State) (u : DecUnit) : (s.setDec u).hostCmd = s.hostCmd := rfl
@[simp] theorem State.setDec_hostRsp (s : State) (u : DecUnit) : (s.setDec u).hostRsp = s.hostRsp := rfl

@[simp] theorem State.setTx_crcAcc (s : State) (u : TxUnit) : (s.setTx u).crcAcc = s.crcAcc := rfl
@[simp] theorem State.setTx_enc (s : State) (u : TxUnit) : (s.setTx u).enc = s.enc := rfl
@[simp] theorem State.setTx_dec (s : State) (u : TxUnit) : (s.setTx u).dec = s.dec := rfl
@[simp] theorem State.setTx_tx (s : State) (u : TxUnit) : (s.setTx u).tx = u := rfl
@[simp] theorem State.setTx_rx (s : State) (u : TxUnit) : (s.setTx u).rx = s.rx := rfl
@[simp] theorem State.setTx_rxBuf (s : State) (u : TxUnit) : (s.setTx u).rxBuf = s.rxBuf := rfl
@[simp] theorem State.setTx_hostCmd (s : State) (u : TxUnit) : (s.setTx u).hostCmd = s.hostCmd := rfl
@[simp] theorem State.setTx_hostRsp (s : State) (u : TxUnit) : (s.setTx u).hostRsp = s.hostRsp := rfl

@[simp] theorem State.setRx_crcAcc (s : State) (u : RxUnit) : (s.setRx u).crcAcc = s.crcAcc := rfl
@[simp] theorem State.setRx_enc (s : State) (u : RxUnit) : (s.setRx u).enc = s.enc := rfl
@[simp] theorem State.setRx_dec (s : State) (u : RxUnit) : (s.setRx u).dec = s.dec := rfl
@[simp] theorem State.setRx_tx (s : State) (u : RxUnit) : (s.setRx u).tx = s.tx := rfl
@[simp] theorem State.setRx_rx (s : State) (u : RxUnit) : (s.setRx u).rx = u := rfl
@[simp] theorem State.setRx_rxBuf (s : State) (u : RxUnit) : (s.setRx u).rxBuf = s.rxBuf := rfl
@[simp] theorem State.setRx_hostCmd (s : State) (u : RxUnit) : (s.setRx u).hostCmd = s.hostCmd := rfl
@[simp] theorem State.setRx_hostRsp (s : State) (u : RxUnit) : (s.setRx u).hostRsp = s.hostRsp := rfl

@[simp] theorem State.setRxBuf_crcAcc (s : State) (m : Memory) : (s.setRxBuf m).crcAcc = s.crcAcc := rfl
@[simp] theorem State.setRxBuf_enc (s : State) (m : Memory) : (s.setRxBuf m).enc = s.enc := rfl
@[simp] theorem State.setRxBuf_dec (s : State) (m : Memory) : (s.setRxBuf m).dec = s.dec := rfl
@[simp] theorem State.setRxBuf_tx (s : State) (m : Memory) : (s.setRxBuf m).tx = s.tx := rfl
@[simp] theorem State.setRxBuf_rx (s : State) (m : Memory) : (s.setRxBuf m).rx = s.rx := rfl
@[simp] theorem State.setRxBuf_rxBuf (s : State) (m : Memory) : (s.setRxBuf m).rxBuf = m := rfl
@[simp] theorem State.setRxBuf_hostCmd (s : State) (m : Memory) : (s.setRxBuf m).hostCmd = s.hostCmd := rfl
@[simp] theorem State.setRxBuf_hostRsp (s : State) (m : Memory) : (s.setRxBuf m).hostRsp = s.hostRsp := rfl

@[simp] theorem State.pushRsp_crcAcc (s : State) (r : Response) : (s.pushRsp r).crcAcc = s.crcAcc := rfl
@[simp] theorem State.pushRsp_enc (s : State) (r : Response) : (s.pushRsp r).enc = s.enc := rfl
@[simp] theorem State.pushRsp_dec (s : State) (r : Response) : (s.pushRsp r).dec = s.dec := rfl
@[simp] theorem State.pushRsp_tx (s : State) (r : Response) : (s.pushRsp r).tx = s.tx := rfl
@[simp] theorem State.pushRsp_rx (s : State) (r : Response) : (s.pushRsp r).rx = s.rx := rfl
@[simp] theorem State.pushRsp_rxBuf (s : State) (r : Response) : (s.pushRsp r).rxBuf = s.rxBuf := rfl
@[simp] theorem State.pushRsp_hostCmd (s : State) (r : Response) : (s.pushRsp r).hostCmd = s.hostCmd := rfl
@[simp] theorem State.pushRsp_hostRsp (s : State) (r : Response) : (s.pushRsp r).hostRsp = s.hostRsp ++ [r] := rfl

@[simp] theorem State.issueNext_crcAcc (s : State) (w : CmdWord) : (s.issueNext w).crcAcc = s.crcAcc := rfl
@[simp] theorem State.issueNext_enc (s : State) (w : CmdWord) : (s.issueNext w).enc = s.enc := rfl
@[simp] theorem State.issueNext_dec (s : State) (w : CmdWord) : (s.issueNext w).dec = s.dec := rfl
@[simp] theorem State.issueNext_tx (s : State) (w : CmdWord) : (s.issueNext w).tx = s.tx := rfl
@[simp] theorem State.issueNext_rx (s : State) (w : CmdWord) : (s.issueNext w).rx = s.rx := rfl
@[simp] theorem State.issueNext_rxBuf (s : State) (w : CmdWord) : (s.issueNext w).rxBuf = s.rxBuf := rfl
@[simp] theorem State.issueNext_hostCmd (s : State) (w : CmdWord) : (s.issueNext w).hostCmd = w :: s.hostCmd := rfl
@[simp] theorem State.issueNext_hostRsp (s : State) (w : CmdWord) : (s.issueNext w).hostRsp = s.hostRsp := rfl

@[simp] theorem State.reset_crcAcc : State.reset.crcAcc = 0 := rfl
@[simp] theorem State.reset_enc : State.reset.enc = EncUnit.reset := rfl
@[simp] theorem State.reset_dec : State.reset.dec = DecUnit.reset := rfl
@[simp] theorem State.reset_tx : State.reset.tx = TxUnit.reset := rfl
@[simp] theorem State.reset_rx : State.reset.rx = RxUnit.reset := rfl
@[simp] theorem State.reset_rxBuf : State.reset.rxBuf = [] := rfl
@[simp] theorem State.reset_hostCmd : State.reset.hostCmd = [] := rfl
@[simp] theorem State.reset_hostRsp : State.reset.hostRsp = [] := rfl

end Sys2Proof.Machine
end

