-- ==== Sys2Proof/Laws/Ops.lean ====
section
/-! SUPPORT. Laws/Ops.lean: what the shared operations can do: ending a command, RX_BUF, the command interface. -/

namespace Sys2Proof.Machine

/-! ### Ending a command -/

@[simp] theorem State.respond_eq_next (s t : State) (r : Response) :
    s.respond r = .next t ↔ t = s.pushRsp r := by
  simp [State.respond, eq_comm]

@[simp] theorem State.respond_ne_fault (s : State) (r : Response) (f : Fault) :
    s.respond r ≠ .fault f := nofun

@[simp] theorem State.respond_ne_refused (s : State) (r : Response) (x : Refusal) :
    s.respond r ≠ .refused x := nofun

theorem State.raise_eq_respond (s : State) (st : Status) :
    s.raise st = s.respond { status := st } := rfl

@[simp] theorem State.raise_eq_next (s t : State) (st : Status) :
    s.raise st = .next t ↔ t = s.pushRsp { status := st } := s.respond_eq_next t _

@[simp] theorem State.raise_ne_fault (s : State) (st : Status) (f : Fault) :
    s.raise st ≠ .fault f := nofun

@[simp] theorem State.raise_ne_refused (s : State) (st : Status) (x : Refusal) :
    s.raise st ≠ .refused x := nofun

/-! ### RX_BUF -/

theorem Memory.lookup_write (m : Memory) (i j : Nat) (b : Byte) :
    (m.write i b).lookup j = if j = i then some b else m.lookup j := by
  induction m with
  | nil => simp [Memory.write, Memory.lookup]
  | cons c m ih =>
    obtain ⟨k, c⟩ := c
    simp only [Memory.write]
    split
    · simp [Memory.lookup]
    · split
      · subst i
        by_cases h : j = k <;> simp [Memory.lookup, h]
      · by_cases h : j = k
        · subst j
          simp [Memory.lookup, Ne.symm ‹¬i = k›]
        · simp [Memory.lookup, h, ih]

@[simp] theorem Memory.read_write_self (m : Memory) (i : Nat) (b : Byte) : (m.write i b).read i = b := by
  simp [Memory.read, Memory.lookup_write]

theorem Memory.read_write_other (m : Memory) {i j : Nat} (b : Byte) (h : j ≠ i) :
    (m.write i b).read j = m.read j := by
  simp [Memory.read, Memory.lookup_write, h]

@[simp] theorem Memory.read_nil (i : Nat) : Memory.read [] i = Config.rxBufPowerOn i := rfl

theorem Memory.wf_nil : Memory.wf [] := by simp [Memory.wf]

theorem Memory.fst_mem_write {m : Memory} {i : Nat} {b : Byte} {c : Host.Cell} (h : c ∈ m.write i b) :
    c.1 = i ∨ c ∈ m := by
  induction m with
  | nil => simp_all [Memory.write]
  | cons d m ih =>
    obtain ⟨k, d⟩ := d
    simp only [Memory.write] at h
    split at h
    · rcases List.mem_cons.1 h with rfl | h
      · exact .inl rfl
      · exact .inr h
    · split at h
      · rcases List.mem_cons.1 h with rfl | h
        · exact .inl rfl
        · exact .inr (List.mem_cons_of_mem _ h)
      · rcases List.mem_cons.1 h with rfl | h
        · exact .inr List.mem_cons_self
        · exact (ih h).imp_right (List.mem_cons_of_mem _)

/-- Writing an existing entry keeps RX_BUF's list canonical. -/
theorem Memory.wf_write {m : Memory} (hm : m.wf) {i : Nat} (hi : i < Config.rxBufDepth) (b : Byte) :
    (m.write i b).wf := by
  refine ⟨?_, fun c hc => (fst_mem_write hc).elim (fun h => h ▸ hi) (hm.2 c)⟩
  induction m with
  | nil => simp [Memory.write]
  | cons d m ih =>
    obtain ⟨k, d⟩ := d
    have hp := List.pairwise_cons.1 hm.1
    have hw : Memory.wf m := ⟨hp.2, fun c hc => hm.2 c (List.mem_cons_of_mem _ hc)⟩
    simp only [Memory.write]
    split
    · next hik =>
      refine List.pairwise_cons.2 ⟨fun c hc => ?_, hm.1⟩
      rcases List.mem_cons.1 hc with rfl | hc
      · exact hik
      · exact Nat.lt_trans hik (hp.1 c hc)
    · split
      · next h => subst h; exact List.pairwise_cons.2 ⟨fun c hc => hp.1 c hc, hp.2⟩
      · refine List.pairwise_cons.2 ⟨fun c hc => ?_, ih hw⟩
        rcases fst_mem_write hc with h | hc
        · show k < c.1
          omega
        · exact hp.1 c hc

/-- Below every listed index nothing is listed. -/
theorem Memory.lookup_eq_none {m : Memory} {i : Nat} (h : ∀ c ∈ m, i < c.1) : m.lookup i = none := by
  induction m with
  | nil => rfl
  | cons d m ih =>
    obtain ⟨k, d⟩ := d
    have hk : i < k := h _ List.mem_cons_self
    simp [Memory.lookup, Nat.ne_of_lt hk, ih fun c hc => h c (List.mem_cons_of_mem _ hc)]

/-- The canonical form is one: two such lists that hold the same entries are the same list. -/
theorem Memory.ext_of_wf {m n : Memory} (hm : m.wf) (hn : n.wf) (h : ∀ i, m.lookup i = n.lookup i) : m = n := by
  induction m generalizing n with
  | nil =>
    cases n with
    | nil => rfl
    | cons d n => simpa [Memory.lookup] using h d.1
  | cons c m ih =>
    cases n with
    | nil => simpa [Memory.lookup] using h c.1
    | cons d n =>
      obtain ⟨j, b⟩ := c
      obtain ⟨k, e⟩ := d
      have pm := List.pairwise_cons.1 hm.1
      have pn := List.pairwise_cons.1 hn.1
      have hjk : j = k := by
        rcases Nat.lt_trichotomy j k with hlt | heq | hlt
        · have := h j
          rw [Memory.lookup_eq_none (m := (k, e) :: n) (i := j)] at this
          · simp [Memory.lookup] at this
          · intro c hc
            rcases List.mem_cons.1 hc with rfl | hc
            · exact hlt
            · exact Nat.lt_trans hlt (pn.1 c hc)
        · exact heq
        · have := h k
          rw [Memory.lookup_eq_none (m := (j, b) :: m) (i := k)] at this
          · simp [Memory.lookup] at this
          · intro c hc
            rcases List.mem_cons.1 hc with rfl | hc
            · exact hlt
            · exact Nat.lt_trans hlt (pm.1 c hc)
      subst hjk
      have hbe : b = e := by simpa [Memory.lookup] using h j
      subst hbe
      congr 1
      refine ih ⟨pm.2, fun c hc => hm.2 c (List.mem_cons_of_mem _ hc)⟩
        ⟨pn.2, fun c hc => hn.2 c (List.mem_cons_of_mem _ hc)⟩ fun i => ?_
      by_cases hi : i = j
      · subst hi
        rw [Memory.lookup_eq_none fun c hc => pm.1 c hc, Memory.lookup_eq_none fun c hc => pn.1 c hc]
      · simpa [Memory.lookup, hi] using h i

theorem State.memRead_of_lt (s : State) {i : Nat} (h : i < 255) : s.memRead i = .ok (s.rxBuf.read i) := by
  simp [State.memRead, Config.rxBufDepth, h]

theorem State.memWrite_of_lt (s : State) {i : Nat} (h : i < 255) (v : Byte) :
    s.memWrite i v = .ok (s.setRxBuf (s.rxBuf.write i v)) := by
  simp [State.memWrite, Config.rxBufDepth, h]

theorem State.memWrite_of_ge (s : State) {i : Nat} (h : 255 ≤ i) (v : Byte) :
    s.memWrite i v = .error .rxBufIndex := by
  simp [State.memWrite, Config.rxBufDepth, Nat.not_lt.2 h]

/-! ### The registers as REG_RD shows them -/

theorem toNat_append_eq {m n : Nat} (x : BitVec m) (y : BitVec n) :
    (x ++ y).toNat = 2 ^ n * x.toNat + y.toNat := by
  rw [BitVec.toNat_append, ← Nat.shiftLeft_add_eq_or_of_lt y.isLt, Nat.shiftLeft_eq, Nat.mul_comm]

theorem EncUnit.ctl_toNat (u : EncUnit) : u.ctl.toNat = 16 * u.count.toNat + u.active.toNat := by
  refine (toNat_append_eq (u.count ++ 0#3) (BitVec.ofBool u.active)).trans ?_
  rw [toNat_append_eq]
  cases u.active <;> simp <;> omega

theorem TxUnit.ctl_toNat (u : TxUnit) :
    u.ctl.toNat = 2 ^ 24 * u.crc.toNat + 2 ^ 16 * u.cnt.toNat + 2 ^ 8 * u.len.toNat + u.state.code.toNat := by
  refine (toNat_append_eq (u.crc ++ u.cnt ++ u.len ++ 0#6) u.state.code).trans ?_
  simp only [toNat_append_eq, BitVec.toNat_ofNat]
  omega

theorem RxUnit.ctl_toNat (u : RxUnit) :
    u.ctl.toNat = 2 ^ 24 * u.crc.toNat + 2 ^ 16 * u.cnt.toNat + 2 ^ 8 * u.len.toNat + 4 * u.seen.toNat +
      u.state.code.toNat := by
  refine (toNat_append_eq (u.crc ++ u.cnt ++ u.len ++ 0#5 ++ BitVec.ofBool u.seen) u.state.code).trans ?_
  simp only [toNat_append_eq, BitVec.toNat_ofNat]
  cases u.seen <;> simp <;> omega

/-! ### The command interface -/

theorem State.takeCommand_nil {s : State} (h : s.hostCmd = []) : s.takeCommand = none := by
  simp [State.takeCommand, h]

theorem State.takeCommand_cons {s : State} {w : CmdWord} {ws : List CmdWord} (h : s.hostCmd = w :: ws) :
    s.takeCommand = some (w, { s with hostCmd := ws }) := by
  simp [State.takeCommand, h]

theorem step_of_nil {s : State} (h : s.hostCmd = []) : step s = s.awaitCommand := by
  simp [step, State.takeCommand_nil h]

theorem step_of_cons {s : State} {w : CmdWord} {ws : List CmdWord} (h : s.hostCmd = w :: ws) :
    step s = runWord w { s with hostCmd := ws } := by
  simp [step, State.takeCommand_cons h]

end Sys2Proof.Machine
end

