-- ==== Sys2Proof/Laws/Exec.lean ====
section
/-! SUPPORT. Laws/Exec.lean: what a command that answers can have done to the command interface, said once. -/

namespace Sys2Proof.Machine

/-- REG_RD reads exactly the assigned numbers (R22). -/
theorem State.readReg_isSome (s : State) (i : Byte) : (s.readReg i).isSome = true ↔ i.toNat ≤ 6 := by
  unfold State.readReg
  split <;> simp_all
  omega

/-- A command that answers a next state has ended with one response, on a state whose host side is as before. -/
theorem exec_eq_next {i : Instr} {s t : State} (h : exec i s = .next t) :
    ∃ (u : State) (r : Response), t = u.pushRsp r ∧ u.hostCmd = s.hostCmd ∧ u.hostRsp = s.hostRsp := by
  cases i
  case rxByte d =>
    simp only [exec, execRxByte] at h
    split at h
    · exact ⟨_, _, (State.respond_eq_next _ _ _).1 h, rfl, rfl⟩
    · simp only [rxPayloadByte, State.memWrite] at h
      by_cases hc : s.rx.cnt.toNat < Config.rxBufDepth
      · simp only [hc, if_true] at h
        exact ⟨_, _, (State.respond_eq_next _ _ _).1 h, rfl, rfl⟩
      · simp [hc] at h
    · simp only [rxTrailerByte] at h
      split at h <;> exact ⟨_, _, (State.respond_eq_next _ _ _).1 h, rfl, rfl⟩
  case rxRdbuf n =>
    simp only [exec, execRxRdbuf] at h
    split at h
    · exact ⟨_, _, (State.raise_eq_next _ _ _).1 h, rfl, rfl⟩
    · rw [State.memRead_of_lt _ (by omega)] at h
      exact ⟨_, _, (State.respond_eq_next _ _ _).1 h, rfl, rfl⟩
  case regRd n =>
    simp only [exec, execRegRd] at h
    split at h <;> exact ⟨_, _, (State.respond_eq_next _ _ _).1 h, rfl, rfl⟩
  case encNext =>
    simp only [exec, execEncNext] at h
    split at h
    · split at h <;> exact ⟨_, _, (State.respond_eq_next _ _ _).1 h, rfl, rfl⟩
    · exact ⟨_, _, (State.raise_eq_next _ _ _).1 h, rfl, rfl⟩
  case decByte d =>
    simp only [exec, execDecByte] at h
    split at h
    · exact ⟨_, _, (State.respond_eq_next _ _ _).1 h, rfl, rfl⟩
    · split at h <;> exact ⟨_, _, (State.respond_eq_next _ _ _).1 h, rfl, rfl⟩
  case txStart n =>
    simp only [exec, execTxStart] at h
    split at h
    · exact ⟨_, _, (State.raise_eq_next _ _ _).1 h, rfl, rfl⟩
    · split at h <;> exact ⟨_, _, (State.respond_eq_next _ _ _).1 h, rfl, rfl⟩
  case txByte d =>
    simp only [exec, execTxByte] at h
    split at h <;> exact ⟨_, _, (State.respond_eq_next _ _ _).1 h, rfl, rfl⟩
  case txEnd =>
    simp only [exec, execTxEnd] at h
    split at h <;> exact ⟨_, _, (State.respond_eq_next _ _ _).1 h, rfl, rfl⟩
  case rxEos =>
    simp only [exec, execRxEos] at h
    split at h <;> exact ⟨_, _, (State.respond_eq_next _ _ _).1 h, rfl, rfl⟩
  all_goals exact ⟨_, _, (State.respond_eq_next _ _ _).1 h, rfl, rfl⟩

end Sys2Proof.Machine
end

