-- ==== Sys2Proof/Laws/Reference.lean ====
section
/-! SUPPORT. Laws/Reference.lean: the reference functions satisfy the spec's own loop equations: the bounds on their
loops never cut them (assumption log 12). -/

namespace Sys2Proof.Machine

@[simp] theorem crc8_nil : crc8 [] = 0x00#8 := by decide

/-- The CRC of a string with one more byte is one more step (R140, R141). -/
theorem crc8_append_singleton (s : List Byte) (d : Byte) : crc8 (s ++ [d]) = crcStep (crc8 s) d := by
  simp [crc8, Config.crcXorOut]

/-- A value that this many 7-bit groups hold is encoded the same by any larger bound on the loop. -/
theorem varuintEncodeLoop_fuel (n : Nat) (v : U64) (h : v.toNat < 2 ^ (7 * (n + 1))) (k : Nat) :
    varuintEncodeLoop (n + 1 + k) v = varuintEncodeLoop (n + 1) v := by
  induction n generalizing v with
  | zero =>
    have hv : v >>> 7 = 0 := by
      apply BitVec.eq_of_toNat_eq
      simp only [BitVec.toNat_ushiftRight, Nat.shiftRight_eq_div_pow]
      simpa using Nat.div_eq_of_lt h
    rw [Nat.add_comm (0 + 1) k]
    simp [varuintEncodeLoop, hv]
  | succ n ih =>
    rw [show n + 1 + 1 + k = (n + 1 + k) + 1 by omega]
    simp only [varuintEncodeLoop]
    split
    · rfl
    · rw [ih (v >>> 7)]
      · rfl
      · simp only [BitVec.toNat_ushiftRight, Nat.shiftRight_eq_div_pow]
        refine Nat.div_lt_of_lt_mul ?_
        rw [← Nat.pow_add, show 7 + 7 * (n + 1) = 7 * (n + 1 + 1) by omega]
        exact h

/-- The loop of R100 as the spec writes it, with no bound. -/
theorem varuintEncode_eq (v : U64) :
    varuintEncode v =
      if v >>> 7 = 0 then [lowGroup v] else (0x80#8 ||| lowGroup v) :: varuintEncode (v >>> 7) := by
  show varuintEncodeLoop (9 + 1) v = _
  rw [varuintEncodeLoop]
  split
  · rfl
  · congr 1
    refine (varuintEncodeLoop_fuel 8 (v >>> 7) ?_ 1).symm
    have := v.isLt
    simp only [BitVec.toNat_ushiftRight, Nat.shiftRight_eq_div_pow]
    omega

/-- Any bound at least as long as the stream lets the loop of R162 run to its end. -/
theorem splitLoop_fuel (n : Nat) (s : List Byte) (h : s.length ≤ n) : splitLoop n s = splitLoop s.length s := by
  induction hs : s.length using Nat.strong_induction_on generalizing n s with
  | _ k ih =>
    cases s with
    | nil => subst hs; cases n <;> rfl
    | cons l rest =>
      obtain ⟨n, rfl⟩ : ∃ m, n = m + 1 := ⟨n - 1, by simp at h; omega⟩
      obtain ⟨k, rfl⟩ : ∃ m, k = m + 1 := ⟨k - 1, by simp at hs; omega⟩
      simp only [splitLoop]
      simp only [List.length_cons, Nat.add_le_add_iff_right] at h hs
      split
      · rfl
      · have hd : (rest.drop (l.toNat + 1)).length < k + 1 := by simp; omega
        rw [ih _ hd n _ (by simp only [List.length_drop]; omega) rfl, ih _ hd k _ (by simp only [List.length_drop]; omega) rfl]

/-- The loop of R162 as the spec writes it, with no bound. -/
theorem splitLoop_eq (l : Byte) (rest : List Byte) :
    splitLoop (l :: rest).length (l :: rest) =
      if rest.length < l.toNat + 1 then ([], .truncated)
      else
        let r := splitLoop (rest.drop (l.toNat + 1)).length (rest.drop (l.toNat + 1))
        ((l :: rest.take (l.toNat + 1)) :: r.1, r.2) := by
  simp only [List.length_cons, splitLoop]
  split
  · rfl
  · rw [splitLoop_fuel _ _ (by simp)]

end Sys2Proof.Machine
end

