-- ==== Sys2Proof/Tests/Slice0.lean ====
section
/-! SUPPORT. Slice0.lean: the model's own tests, one step each, their expected results from 95_test_vectors.md or from the
examples in the commands' rules; and, for every obligation with hypotheses, a witness that meets them. -/

namespace Sys2Proof.Tests

open Machine

/-- The response a command gives, if it gives one. -/
def rspOf (o : Host.Outcome State Fault Refusal) : Option Response :=
  match o with
  | .next t => t.hostRsp.getLast?
  | _ => none

/-- A field of the state a command leaves. -/
def fieldOf {α : Type} (f : State → α) (o : Host.Outcome State Fault Refusal) : Option α :=
  match o with
  | .next t => some (f t)
  | _ => none

/-- A state in the middle of everything: 128 half encoded, one varuint byte 0xAC taken, one payload byte 0x01 of two
passed by TX and received by RX. -/
def mid : State where
  crcAcc := 0x76#8
  enc := ⟨0x80, true, 0⟩
  dec := ⟨0x2C, 1⟩
  tx := ⟨.body, 2, 1, 0x1D⟩
  rx := ⟨.body, true, 2, 1, 0x1D⟩
  rxBuf := [(0, 0x01#8)]
  hostCmd := [0x210000000000000001#72]
  hostRsp := []

/-- That state with other registers in one unit. -/
def encAt (u : EncUnit) : State := { mid with enc := u }

def decAt (u : DecUnit) : State := { mid with dec := u }

def txAt (u : TxUnit) : State := { mid with tx := u }

def rxAt (u : RxUnit) : State := { mid with rx := u }

/-! ### Words written out from the encoding (30_encoding R70, R74; 95 P1 to P5) -/

theorem test_decode_control : decode 0x000000000000000000#72 = .command .nop ∧
    decode 0x010000000000000000#72 = .command .srst ∧
    decode 0x020000000000000005#72 = .command (.regRd 5) := by decide

theorem test_decode_varuint : decode 0x10FFFFFFFFFFFFFFFF#72 = .command (.encLoad 0xFFFFFFFFFFFFFFFF) ∧
    decode 0x110000000000000000#72 = .command .encNext ∧ decode 0x180000000000000000#72 = .command .decClr ∧
    decode 0x190000000000000080#72 = .command (.decByte 0x80) ∧
    decode 0x1A0000000000000000#72 = .command .decEnd := by decide

theorem test_decode_crc : decode 0x200000000000000000#72 = .command .crcClr ∧
    decode 0x210000000000000031#72 = .command (.crcByte 0x31) := by decide

theorem test_decode_tx : decode 0x30000000000000000C#72 = .command (.txStart 12) ∧
    decode 0x3100000000000000FF#72 = .command (.txByte 0xFF) ∧ decode 0x320000000000000000#72 = .command .txEnd ∧
    decode 0x330000000000000000#72 = .command .txAbort := by decide

theorem test_decode_rx : decode 0x3800000000000000AA#72 = .command (.rxByte 0xAA) ∧
    decode 0x390000000000000000#72 = .command .rxEos ∧
    decode 0x3A0000000000000001#72 = .command (.rxRdbuf 1) := by decide

theorem test_decode_illegal : decode 0x0300000000000000FF#72 = .illegal 0x03 ∧
    decode 0xFF0000000000000000#72 = .illegal 0xFF := by decide

/-- 30_encoding R78's example: `CRC_BYTE 0x01` is `21 0000000000000001`. -/
theorem test_listing : listing (encode (.crcByte 0x01)) = "21 0000000000000001".toList := by decide

theorem test_decodeTableWord : decodeTableWord 72 0x3A00000000000000FF = some (.rxRdbuf 255) ∧
    decodeTableWord 72 0x3B0000000000000000 = none := by decide

theorem test_first_step_after_reset : rspOf (step (State.reset.withFetchWord 72 0x210000000000000101)) =
    some { status := .ok, value := 0x1D } := by decide

/-! ### Well-formedness: an ill-formed term for each check, refused (30_encoding R78, R79) -/

theorem test_wellFormed_lines : OperandForm.byte.admits (some 255) = true ∧
    OperandForm.byte.admits (some 256) = false ∧ OperandForm.index.admits (some 256) = false ∧
    OperandForm.u64.admits (some (2 ^ 64)) = false ∧ OperandForm.none.admits (some 0) = false ∧
    OperandForm.byte.admits none = false := by decide

theorem test_wellFormed_pseudo : (Pseudo.frame [1, 255]).wellFormed = true ∧
    (Pseudo.frame [256]).wellFormed = false ∧ (Pseudo.crcBlock [256]).wellFormed = false ∧
    (Pseudo.decBytes [256]).wellFormed = false ∧ (Pseudo.rxStream [256]).wellFormed = false ∧
    (Pseudo.enc (2 ^ 64)).wellFormed = false ∧
    (Pseudo.frame (List.replicate 256 0)).wellFormed = false :=
  ⟨by decide, by decide, by decide, by decide, by decide, by decide, by
    rw [Pseudo.wellFormed, List.length_replicate]; rfl⟩

theorem test_assembler_refuses : assembleText "CRC_BYTE 0x101".toList = .error .operandTooLarge ∧
    assembleText "NOP 3".toList = .error .unexpectedOperand ∧
    assembleText "CRC_BYTE ; none".toList = .error .missingOperand ∧
    assembleText "FOO".toList = .error .unknownMnemonic ∧
    assembleText "TX_BYTE 0xZZ".toList = .error .badLiteral := by decide

theorem test_assembler_text : assembleText "TX_START 0xC ; open".toList = .ok [0x30000000000000000C#72] ∧
    assembleText "FRAME 1, 0x02".toList = .ok [0x300000000000000002#72, 0x310000000000000001#72,
      0x310000000000000002#72, 0x320000000000000000#72] ∧
    assembleText "  ; nothing".toList = .ok [] := by decide

/-! ### Commands -/

theorem test_nop : rspOf (exec .nop mid) = some { status := .ok } := by decide

/-- R211: after SRST nothing is left to encode; RX_BUF is kept. -/
theorem test_srst : fieldOf (fun t => (t.enc, t.crcAcc, t.rxBuf)) (exec .srst mid) =
    some (⟨0, false, 0⟩, 0, [(0, 0x01#8)]) := by decide

/-- R212's example: after TX_START 2, TX_BYTE 0x01. -/
theorem test_regRd_tx : rspOf (exec (.regRd 0x05) mid) = some { status := .ok, value := 0x1D010201 } := by decide

/-- 95 P4 line 16, and 2.6: REG_RD 0x07. -/
theorem test_regRd_rx : rspOf (exec (.regRd 0x06) (rxAt ⟨.len, false, 3, 1, 0x73⟩)) =
    some { status := .ok, value := 0x73010300 } ∧
    rspOf (exec (.regRd 0x07) mid) = some { status := .errRange } := by decide

theorem test_encLoad : fieldOf State.enc (exec (.encLoad 300) mid) = some ⟨300, true, 0⟩ := by decide

/-- R121's example: after ENC_LOAD 300. -/
theorem test_encNext_first : rspOf (exec .encNext (encAt ⟨300, true, 0⟩)) =
    some { status := .ok, bvalid := true, byte := 0xAC, count := 1 } := by decide

/-- 95 P2 line 17: the tenth byte of 2^64 − 1. -/
theorem test_encNext_tenth : rspOf (exec .encNext (encAt ⟨1, true, 9⟩)) =
    some { status := .done, bvalid := true, byte := 0x01, count := 10 } := by decide

theorem test_decClr : fieldOf State.dec (exec .decClr mid) = some ⟨0, 0⟩ := by decide

/-- R131's example. -/
theorem test_decByte_done : rspOf (exec (.decByte 0x02) mid) =
    some { status := .done, value := 300, count := 2 } := by decide

/-- 95 P2 lines 27 and 39: a tenth byte of 0x01 and of 0x02. -/
theorem test_decByte_tenth :
    rspOf (exec (.decByte 0x01) (decAt ⟨0x7FFFFFFFFFFFFFFF, 9⟩)) =
      some { status := .done, value := 0xFFFFFFFFFFFFFFFF, count := 10 } ∧
    rspOf (exec (.decByte 0x02) (decAt ⟨0x7FFFFFFFFFFFFFFF, 9⟩)) =
      some { status := .errMalformedVaruint, count := 10 } := by decide

theorem test_decEnd : rspOf (exec .decEnd mid) = some { status := .errMalformedVaruint, count := 1 } := by decide

theorem test_crcClr : fieldOf State.crcAcc (exec .crcClr mid) = some 0x00 := by decide

/-- 95 P1 lines 2 and 10. -/
theorem test_crcByte : rspOf (exec (.crcByte 0x31) State.reset) = some { status := .ok, value := 0x57 } ∧
    rspOf (exec (.crcByte 0x39) { mid with crcAcc := 0xE2 }) = some { status := .ok, value := 0x37 } := by decide

/-- 95 P5 lines 5 to 7. -/
theorem test_txStart : rspOf (exec (.txStart 256) State.reset) = some { status := .errPayloadTooLarge } ∧
    fieldOf State.tx (exec (.txStart 0) State.reset) = some ⟨.trailer, 0, 0, 0⟩ ∧
    rspOf (exec (.txStart 256) mid) = some { status := .errSequence } := by decide

/-- R171's example: the second byte of two. -/
theorem test_txByte : fieldOf State.tx (exec (.txByte 0x02) mid) = some ⟨.trailer, 2, 2, 0x76⟩ ∧
    rspOf (exec (.txByte 0x02) mid) = some { status := .ok, bvalid := true, byte := 0x02, count := 2 } := by decide

/-- R172's example. -/
theorem test_txEnd : rspOf (exec .txEnd (txAt ⟨.trailer, 2, 2, 0x76⟩)) =
    some { status := .done, bvalid := true, byte := 0x76, value := 0x76, count := 2 } ∧
    rspOf (exec .txEnd mid) = some { status := .errSequence } := by decide

theorem test_txAbort : rspOf (exec .txAbort mid) = some { status := .ok, count := 1 } ∧
    fieldOf State.tx (exec .txAbort mid) = some ⟨.idle, 0, 0, 0⟩ := by decide

/-- R180's example: the second payload byte. -/
theorem test_rxByte_payload : fieldOf (fun t => (t.rx, t.rxBuf)) (exec (.rxByte 0x02) mid) =
    some (⟨.crc, true, 2, 2, 0x76⟩, [(0, 0x01#8), (1, 0x02#8)]) := by decide

/-- 95 P4 line 10: a wrong trailer. -/
theorem test_rxByte_mismatch : rspOf (exec (.rxByte 0x77) (rxAt ⟨.crc, true, 2, 2, 0x2F⟩)) =
    some { status := .errChecksumMismatch, value := 0x772F, count := 2 } := by decide

/-- R181's example, and a second RX_EOS. -/
theorem test_rxEos : rspOf (exec .rxEos mid) = some { status := .errTruncatedStream, value := 1, count := 1 } ∧
    rspOf (exec .rxEos State.reset) = some { status := .errEmptyStream } := by decide

theorem test_rxRdbuf : rspOf (exec (.rxRdbuf 0) mid) = some { status := .ok, value := 1 } ∧
    rspOf (exec (.rxRdbuf 255) mid) = some { status := .errRange } := by decide

theorem test_illegal : runWord 0x340000000000000000#72 mid = .next (mid.pushRsp { status := .errIllegalOp }) := by
  rfl

/-- 95 2.1, 2.2, 2.3, 2.4: the reference functions. -/
theorem test_reference : varuintEncode 300 = [0xAC, 0x02] ∧ varuintDecode [0x80, 0x00] = .ok (0, 2) ∧
    crcStep 0x1D 0x02 = 0x76 ∧ crcStep 0x3A 0x01 = 0x85 ∧ frame [0x01] = .ok [0x01, 0x01, 0x1D] ∧
    splitStream [0x02, 0x01, 0x02, 0x76, 0x03, 0xAA] = ([[0x02, 0x01, 0x02, 0x76]], .truncated) := by
  refine ⟨?_, ?_, ?_, ?_, ?_, ?_⟩ <;> decide

/-! ### Witnesses: states and operands that meet the obligations' hypotheses -/

theorem mid_inv : mid.Inv where
  encCount := by decide
  encIdle := by decide
  encBusy := by decide
  encRoom := by decide
  decCount := by decide
  decAcc := by decide
  txBody := by decide
  txTrailer := by decide
  rxBody := by decide
  rxTrailer := by decide
  rxCrc := by decide
  rxSeen := by decide
  rxBufWf := by decide

theorem witness_UnreadDataBitsAreIgnored :
    Opcode.crcByte.form = .byte ∧ (0x101 : U64).toNat % 256 = (1 : U64).toNat % 256 ∧
    Opcode.regRd.form = .index ∧ Opcode.nop.form = .none ∧ Opcode.txStart.form = .u64 ∧
    assembleLine ⟨.crcByte, some 255⟩ = .ok 0x2100000000000000FF#72 ∧
    assembleLine ⟨.nop, none⟩ = .ok 0x000000000000000000#72 := by decide

theorem witness_IllegalOpcodesAnswerAndWriteNothing :
    ([0x03, 0x0F, 0x12, 0x17, 0x1B, 0x1F, 0x22, 0x2F, 0x34, 0x37, 0x3B, 0xFF].all fun n =>
      decide (decode (BitVec.ofNat 8 n ++ (0 : U64)) = .illegal (BitVec.ofNat 8 n))) = true ∧
    ([0x02, 0x10, 0x11, 0x18, 0x1A, 0x20, 0x21, 0x30, 0x33, 0x38, 0x3A].all fun n =>
      decide (decode (BitVec.ofNat 8 n ++ (0 : U64)) ≠ .illegal (BitVec.ofNat 8 n))) = true := by decide

theorem witness_AssemblerLinesEncodeOrAreRefused :
    assembleLine ⟨.txByte, some 255⟩ = .ok 0x3100000000000000FF#72 ∧
    assembleLine ⟨.txStart, some (2 ^ 64 - 1)⟩ = .ok 0x30FFFFFFFFFFFFFFFF#72 := by decide

theorem witness_PseudoInstructionsExpandExactly :
    (∀ b ∈ [0, 255], b ≤ 255) ∧ (List.replicate 255 0).length ≤ 255 ∧ 255 < (List.replicate 256 0).length ∧
    (∃ b ∈ [256], 255 < b) ∧ 2 ^ 64 - 1 ≤ 2 ^ 64 - 1 ∧ 2 ^ 64 - 1 < 2 ^ 64 ∧ State.reset.tx.state = .idle := by
  simp only [List.length_replicate]; decide

theorem witness_StepRunsTheDecodedCommand : mid.hostCmd = [0x210000000000000001#72] ∧
    decode 0x210000000000000001#72 = .command (.crcByte 1) ∧
    (State.reset.issueNext 0x030000000000000000#72).hostCmd = [0x030000000000000000#72] ∧
    decode 0x030000000000000000#72 = .illegal 0x03 := by decide

theorem witness_StepWaitsForTheHost : State.reset.hostCmd = [] := by decide

theorem witness_EachCommandGetsOneResponse : mid.hostCmd = 0x210000000000000001#72 :: [] ∧
    ∃ t, step mid = .next t := ⟨rfl, _, rfl⟩

theorem witness_OnlyStopIsAPayloadWritePastTheBuffer :
    (rxAt ⟨.body, true, 0, 255, 0⟩).rx.state = .body ∧
    exec (.rxByte 1) (rxAt ⟨.body, true, 0, 255, 0⟩) = .fault .rxBufIndex := ⟨rfl, rfl⟩

theorem witness_EveryCommandWordCompletes : mid.Inv := mid_inv

theorem witness_EveryCommandSequenceIsAnswered : mid.Inv ∧ mid.hostCmd.length = 1 := ⟨mid_inv, rfl⟩

theorem witness_StepKeepsTheInvariants : mid.Inv ∧ ∃ t, step mid = .next t := ⟨mid_inv, _, rfl⟩

theorem witness_UnitsWriteOnlyTheirOwnRegisters : (Instr.crcByte 1 ≠ .srst ∧ ∃ t, exec (.crcByte 1) mid = .next t) ∧
    unitOf .nop = .control := ⟨⟨by decide, _, rfl⟩, rfl⟩

theorem witness_UnitsReadOnlyTheirOwnRegisters : unitOf (.rxByte 2) ≠ .control ∧
    sameUnit (unitOf (.rxByte 2)) mid { mid with crcAcc := 0, tx := TxUnit.reset } ∧
    ∃ t, exec (.rxByte 2) mid = .next t := ⟨by decide, ⟨rfl, rfl⟩, _, rfl⟩

theorem witness_ReadsHaveNoSideEffects : (Instr.regRd 6 = .regRd 6 ∨ Instr.regRd 6 = .rxRdbuf 6) ∧
    (Instr.rxRdbuf 255 = .regRd 255 ∨ Instr.rxRdbuf 255 = .rxRdbuf 255) := by decide

theorem witness_RxBufChangesOnlyAtThePayloadIndex : (∃ t, exec (.rxByte 2) mid = .next t) ∧ mid.rx.state = .body ∧
    (∃ t, exec (.rxByte 2) State.reset = .next t) ∧ State.reset.rx.state ≠ .body ∧
    (∃ t, exec .srst mid = .next t) := ⟨⟨_, rfl⟩, rfl, ⟨_, rfl⟩, by decide, _, rfl⟩

theorem witness_RegRdReadsTheRegisterFile : 6 < (7 : Byte).toNat ∧ 6 < (255 : Byte).toNat ∧ (0 : Byte).toNat ≤ 6 ∧
    (6 : Byte).toNat ≤ 6 := by decide

theorem witness_EncNextEmitsTheNextGroup : State.reset.enc.active = false ∧
    (mid.enc.active = true ∧ mid.enc.count.toNat ≤ 9 ∧ 128 ≤ mid.enc.val.toNat) ∧
    ((encAt ⟨127, true, 9⟩).enc.active = true ∧ (encAt ⟨127, true, 9⟩).enc.count.toNat ≤ 9 ∧
      (encAt ⟨127, true, 9⟩).enc.val.toNat < 128) := by decide

theorem witness_DecByteAddsAGroupOrFails :
    ((decAt ⟨0, 9⟩).dec.count.toNat = 9 ∧ 2 ≤ (2 : Byte).toNat ∧ (1 : Byte).toNat ≤ 1) ∧
    ((decAt ⟨0, 8⟩).dec.count.toNat ≤ 8 ∧ 128 ≤ (128 : Byte).toNat ∧ (127 : Byte).toNat < 128) := by decide

theorem witness_TxStartOpensAFrameOrIsRefused : mid.tx.state ≠ .idle ∧ State.reset.tx.state = .idle ∧
    255 < (256 : U64).toNat ∧ (255 : U64).toNat ≤ 255 ∧ (0 : U64).toNat ≤ 255 := by decide

theorem witness_TxBytePassesOnePayloadByte : State.reset.tx.state ≠ .body ∧
    (mid.tx.state = .body ∧ mid.tx.cnt.toNat < mid.tx.len.toNat) ∧
    ((txAt ⟨.body, 255, 254, 0⟩).tx.state = .body ∧
      (txAt ⟨.body, 255, 254, 0⟩).tx.cnt.toNat < (txAt ⟨.body, 255, 254, 0⟩).tx.len.toNat) := by decide

theorem witness_TxEndEmitsTheTrailer : mid.tx.state ≠ .trailer ∧
    (txAt ⟨.trailer, 2, 2, 0x76⟩).tx.state = .trailer := by decide

theorem witness_RxByteTakesLengthPayloadOrTrailer : State.reset.rx.state = .len ∧
    ((rxAt ⟨.body, true, 255, 254, 0⟩).rx.state = .body ∧
      (rxAt ⟨.body, true, 255, 254, 0⟩).rx.cnt.toNat < (rxAt ⟨.body, true, 255, 254, 0⟩).rx.len.toNat) ∧
    ((rxAt ⟨.crc, true, 2, 2, 0x76⟩).rx.state = .crc ∧ (0x76 : Byte) = (rxAt ⟨.crc, true, 2, 2, 0x76⟩).rx.crc ∧
      (0x77 : Byte) ≠ (rxAt ⟨.crc, true, 2, 2, 0x76⟩).rx.crc) := by decide

theorem witness_RxEosReportsHowTheStreamEnded :
    ((rxAt ⟨.len, true, 2, 2, 0x76⟩).rx.state = .len ∧ (rxAt ⟨.len, true, 2, 2, 0x76⟩).rx.seen = true) ∧
    (State.reset.rx.state = .len ∧ State.reset.rx.seen = false) ∧ mid.rx.state ≠ .len ∧
    (rxAt ⟨.crc, true, 2, 2, 0x76⟩).rx.state ≠ .len := by decide

theorem witness_RxRdbufReadsAnEntry : (254 : Byte).toNat ≤ 254 ∧ (0 : Byte).toNat ≤ 254 ∧ (255 : Byte) = 255 := by
  decide

theorem witness_CrcIsLinear : ([0x01, 0xFF] : List Byte).length = ([0x80, 0x02] : List Byte).length := by decide

theorem witness_CrcDetectsAnyOneByteChange : 1 < ([0x01, 0x02] : List Byte).length ∧ (0x80 : Byte) ≠ 0 := by decide

theorem witness_VaruintLengthClosedForm : (0 : U64) = 0 ∧ (1 : U64) ≠ 0 ∧
    (2 ^ (7 * (9 - 1)) ≤ (2 ^ 63 - 1 : U64).toNat ∧ (2 ^ 63 - 1 : U64).toNat < 2 ^ (7 * 9)) ∧
    (2 ^ (7 * (1 - 1)) ≤ (127 : U64).toNat ∧ (127 : U64).toNat < 2 ^ (7 * 1)) ∧
    2 ^ 63 ≤ (2 ^ 63 : U64).toNat := by simp

theorem witness_VaruintEncodingIsMinimal : (varuintEncode 0).getLast? = some 0 ∧
    varuintDecode [0x80, 0x00] = .ok (0, 2) := by decide

theorem witness_VaruintTenthByteLimits : (List.replicate 9 (0xFF : Byte)).length = 9 ∧
    (∀ b ∈ List.replicate 9 (0xFF : Byte), 128 ≤ b.toNat) ∧
    varuintDecode (List.replicate 9 0xFF ++ [1]) = .ok (0xFFFFFFFFFFFFFFFF, 10) ∧
    (2 ≤ (2 : Byte).toNat ∧ 2 ≤ (0x81 : Byte).toNat) ∧
    ((List.replicate 8 (0xFF : Byte)).length ≤ 8 ∧ (∀ b ∈ List.replicate 8 (0xFF : Byte), 128 ≤ b.toNat) ∧
      (127 : Byte).toNat < 128) := by decide

theorem witness_DecoderCommandsAnswerTheDecoding : State.reset.dec = ⟨0, 0⟩ ∧
    varuintDecode [0xAC, 0x02, 0xFF] = .ok (300, 2) ∧
    (varuintDecode (List.replicate 9 0xFF ++ [2]) = .error .malformedVaruint ∧
      10 ≤ (List.replicate 9 (0xFF : Byte) ++ [2]).length) ∧
    (varuintDecode (List.replicate 9 0xFF) = .error .malformedVaruint ∧
      (List.replicate 9 (0xFF : Byte)).length < 10) ∧
    (varuintDecode [] = .error .malformedVaruint ∧ ([] : List Byte).length < 10) := by decide

theorem witness_BackToBackVaruintsDecode : (unitOf (.decByte 2) = .dec ∧
    rspOf (exec (.decByte 2) mid) = some { status := .done, value := 300, count := 2 }) ∧
    (unitOf .decEnd = .dec ∧ rspOf (exec .decEnd mid) = some { status := .errMalformedVaruint, count := 1 }) ∧
    State.reset.dec = ⟨0, 0⟩ := by decide

theorem witness_CrcCommandsComputeCrc8 : ([0x01] : List Byte) ≠ [] := by decide

theorem witness_FramerCommandsEmitTheFrame : State.reset.tx.state = .idle ∧
    (255 : U64).toNat = (List.replicate 255 (0 : Byte)).length ∧ (List.replicate 255 (0 : Byte)).length ≤ 255 ∧
    (256 : U64).toNat = (List.replicate 256 (0 : Byte)).length ∧ 255 < (List.replicate 256 (0 : Byte)).length := by
  simp only [List.length_replicate]; decide

theorem witness_DeframerCommandsReportTheSlices : State.reset.rx.state = .len ∧ State.reset.rx.seen = false := by
  decide

theorem witness_ReceivedPacketFillsRxBuf : State.reset.rx.state = .len ∧
    ([0x01] : List Byte).length ≤ 255 ∧ (0x1D : Byte) = crc8 [0x01] ∧ (0x1C : Byte) ≠ crc8 [0x01] := by decide

theorem witness_UnframeOfFrame : (List.replicate 255 (0 : Byte)).length ≤ 255 := by
  simp only [List.length_replicate]; decide

theorem witness_SplitStreamOfFrames : [[], [0x01]].map frame =
    [[0x00, 0x00], [0x01, 0x01, 0x1D]].map Except.ok ∧ [[], [(0x01 : Byte)]] ≠ [] := by decide

theorem witness_OneByteChangeFailsUnframe : frame [0x01] = .ok [0x01, 0x01, 0x1D] ∧ 1 ≤ 1 ∧
    2 < ([0x01, 0x01, 0x1D] : List Byte).length ∧ (1 : Byte) ≠ 0 := by decide

/-- Each status of EveryErrorHasItsListedCause is given by some word in some state. -/
theorem witness_EveryErrorHasItsListedCause :
    rspOf (runWord 0x1A0000000000000000#72 mid) = some { status := .errMalformedVaruint, count := 1 } ∧
    rspOf (runWord 0x380000000000000077#72 (rxAt ⟨.crc, true, 2, 2, 0x2F⟩)) =
      some { status := .errChecksumMismatch, value := 0x772F, count := 2 } ∧
    rspOf (runWord 0x390000000000000000#72 mid) =
      some { status := .errTruncatedStream, value := 1, count := 1 } ∧
    rspOf (runWord 0x300000000000000100#72 State.reset) = some { status := .errPayloadTooLarge } ∧
    rspOf (runWord 0x390000000000000000#72 State.reset) = some { status := .errEmptyStream } ∧
    rspOf (runWord 0x320000000000000000#72 State.reset) = some { status := .errSequence } ∧
    rspOf (runWord 0x020000000000000007#72 State.reset) = some { status := .errRange } ∧
    rspOf (runWord 0x3A00000000000000FF#72 State.reset) = some { status := .errRange } ∧
    rspOf (runWord 0x030000000000000000#72 State.reset) = some { status := .errIllegalOp } := by decide

/-- A state with one packet complete but for its trailer. -/
def atTrailer : State :=
  (rxAt ⟨.crc, true, 1, 1, 0x1D⟩)

theorem witness_PacketIsReportedOnlyWhenComplete : atTrailer.Inv ∧
    rspOf (exec (.rxByte 0x1D) atTrailer) = some { status := .done, value := 0x1D, count := 1 } ∧
    rspOf (exec (.rxByte 0x1C) atTrailer) =
      some { status := .errChecksumMismatch, value := 0x1C1D, count := 1 } := by
  refine ⟨{ mid_inv with rxBody := ?_, rxTrailer := ?_, rxCrc := ?_, rxSeen := ?_ }, ?_⟩ <;> decide

theorem witness_TxCrcCoversTheBytesPassed : State.reset.tx.state = .idle ∧ (2 : U64).toNat ≤ 255 ∧
    (∀ c ∈ [Instr.txByte 1, .crcByte 7, .txByte 2, .txByte 3], keepsFrameOpen c = true) ∧
    (fieldOf State.tx (execAll [.txStart 2, .txByte 1, .crcByte 7, .txByte 2, .txByte 3] State.reset)).isSome := by
  decide

end Sys2Proof.Tests
end

section
/-! What a command word does, by what it decodes to (00_scope R11, 30_encoding R75). -/

namespace Sys2Proof.Machine

theorem runWord_of_command {w : CmdWord} {i : Instr} (h : decode w = .command i) (s : State) :
    runWord w s = exec i s := by
  simp [runWord, h]

theorem runWord_of_illegal {w : CmdWord} {op : BitVec 8} (h : decode w = .illegal op) (s : State) :
    runWord w s = .next (s.pushRsp { status := .errIllegalOp }) := by
  simp [runWord, h, execIllegal]

/-- Settles O8: the step runs the word on the state without it, and the word's decoding says what that is. -/
theorem stepRunsTheDecodedCommand : Obligations.StepRunsTheDecodedCommand := by
  intro s w ws hq
  rw [step_of_cons hq]
  exact ⟨fun _ hi => runWord_of_command hi _, fun _ hop => runWord_of_illegal hop _⟩

end Sys2Proof.Machine
end

section
/-! The invariants of R32 taken apart by unit, so that a command is held to its own unit's part alone. -/

namespace Sys2Proof.Machine

/-- R32's clauses on ENC_VAL and ENC_CTL, with encRoom (log 13). -/
structure EncUnit.Inv (e : EncUnit) : Prop where
  count_le : e.count.toNat ≤ 10
  idle : e.active = false → e.val = 0
  busy : e.active = true → e.count.toNat ≤ 9
  room : e.active = true → e.val.toNat < 2 ^ (64 - 7 * e.count.toNat)

/-- R32's clauses on DEC_ACC and DEC_CTL. -/
structure DecUnit.Inv (d : DecUnit) : Prop where
  count_le : d.count.toNat ≤ 9
  acc_lt : d.acc.toNat < 2 ^ (7 * d.count.toNat)

/-- R32's clauses on TX_CTL that the state alone can meet. -/
structure TxUnit.Inv (x : TxUnit) : Prop where
  body : x.state = .body → x.cnt.toNat < x.len.toNat
  trailer : x.state = .trailer → x.cnt = x.len

/-- R32's clauses on RX_CTL against RX_BUF, with rxBufWf (log 13). -/
structure RxUnit.Inv (x : RxUnit) (m : Memory) : Prop where
  body : x.state = .body → x.cnt.toNat < x.len.toNat
  trailer : x.state = .crc → x.cnt = x.len
  crc : x.state ≠ .len → x.crc = crc8 ((List.range x.cnt.toNat).map m.read)
  seen : x.state ≠ .len → x.seen = true
  bufWf : m.wf

/-- The invariants' clauses on one unit. -/
def State.UnitInv (s : State) : UnitName → Prop
  | .control | .crc => True
  | .enc => s.enc.Inv
  | .dec => s.dec.Inv
  | .tx => s.tx.Inv
  | .rx => s.rx.Inv s.rxBuf

theorem State.inv_iff (s : State) : s.Inv ↔ ∀ u, s.UnitInv u := by
  constructor
  · intro h u
    cases u with
    | control => trivial
    | crc => trivial
    | enc => exact ⟨h.encCount, h.encIdle, h.encBusy, h.encRoom⟩
    | dec => exact ⟨h.decCount, h.decAcc⟩
    | tx => exact ⟨h.txBody, h.txTrailer⟩
    | rx => exact ⟨h.rxBody, h.rxTrailer, h.rxCrc, h.rxSeen, h.rxBufWf⟩
  · intro h
    obtain ⟨encCount, encIdle, encBusy, encRoom⟩ : s.enc.Inv := h .enc
    obtain ⟨decCount, decAcc⟩ : s.dec.Inv := h .dec
    obtain ⟨txBody, txTrailer⟩ : s.tx.Inv := h .tx
    obtain ⟨rxBody, rxTrailer, rxCrc, rxSeen, rxBufWf⟩ : s.rx.Inv s.rxBuf := h .rx
    exact { encCount, encIdle, encBusy, encRoom, decCount, decAcc, txBody, txTrailer, rxBody, rxTrailer,
            rxCrc, rxSeen, rxBufWf }

theorem State.UnitInv.congr {u : UnitName} {s t : State} (h : s.UnitInv u) (hst : sameUnit u s t) :
    t.UnitInv u := by
  cases u with
  | control => trivial
  | crc => trivial
  | enc =>
    have hu : s.enc = t.enc := hst
    exact (hu ▸ h : t.enc.Inv)
  | dec =>
    have hu : s.dec = t.dec := hst
    exact (hu ▸ h : t.dec.Inv)
  | tx =>
    have hu : s.tx = t.tx := hst
    exact (hu ▸ h : t.tx.Inv)
  | rx =>
    obtain ⟨hrx, hbuf⟩ : s.rx = t.rx ∧ s.rxBuf = t.rxBuf := hst
    exact (hrx ▸ hbuf ▸ h : t.rx.Inv t.rxBuf)

/-- The invariants say nothing of the host's two fields, nor of anything else outside the units. -/
theorem State.Inv.congr {s t : State} (h : s.Inv) (hst : ∀ u, sameUnit u s t) : t.Inv :=
  t.inv_iff.2 fun u => (s.inv_iff.1 h u).congr (hst u)

/-! ### What each unit's commands make of its clauses -/

/-- A counter that stays within its width does not wrap. -/
theorem toNat_succ {n : Nat} {k : BitVec n} (h : k.toNat + 1 < 2 ^ n) : (k + 1).toNat = k.toNat + 1 := by
  have hone : (1 : BitVec n).toNat = 1 := Nat.mod_eq_of_lt (show 1 < 2 ^ n by omega)
  rw [BitVec.toNat_add, hone, Nat.mod_eq_of_lt h]

theorem toNat_succ_of_lt {k l : Byte} (h : k.toNat < l.toNat) : (k + 1).toNat = k.toNat + 1 :=
  toNat_succ (Nat.lt_of_le_of_lt h l.isLt)

/-- Counting up from below LEN ends at LEN or stays below it. -/
theorem toNat_succ_lt_of_ne {k l : Byte} (h : k.toNat < l.toNat) (hne : k + 1 ≠ l) : (k + 1).toNat < l.toNat := by
  have := toNat_succ_of_lt h
  have : (k + 1).toNat ≠ l.toNat := fun he => hne (BitVec.eq_of_toNat_eq he)
  omega

theorem EncUnit.reset_inv : EncUnit.reset.Inv := by constructor <;> decide

theorem EncUnit.inv_load (v : U64) : (⟨v, true, 0⟩ : EncUnit).Inv where
  count_le := Nat.zero_le 10
  idle := nofun
  busy _ := Nat.zero_le 9
  room _ := v.isLt

/-- The last group is emitted: ENC_VAL is 0 and the count at most ten (R121). -/
theorem EncUnit.Inv.last {e : EncUnit} (h : e.Inv) (ha : e.active = true) :
    (⟨0, false, e.count + 1⟩ : EncUnit).Inv where
  count_le := by
    have hcount := h.busy ha
    show (e.count + 1).toNat ≤ 10
    rw [toNat_succ (by omega)]
    omega
  idle _ := rfl
  busy := nofun
  room := nofun

/-- More remains after a group: encRoom leaves a tenth group one bit, so this was not the tenth (R121). -/
theorem EncUnit.Inv.more {e : EncUnit} (h : e.Inv) (ha : e.active = true) (hrest : e.val >>> 7 ≠ 0) :
    (⟨e.val >>> 7, true, e.count + 1⟩ : EncUnit).Inv := by
  have hcount := h.busy ha
  have hroom := h.room ha
  have hval : (e.val >>> 7).toNat = e.val.toNat / 2 ^ 7 := by simp [Nat.shiftRight_eq_div_pow]
  have hlt : e.count.toNat < 9 := by
    refine Nat.lt_of_le_of_ne hcount fun h9 => hrest (BitVec.eq_of_toNat_eq ?_)
    rw [h9] at hroom
    rw [hval]
    exact Nat.div_eq_of_lt (by omega)
  have hsucc : (e.count + 1).toNat = e.count.toNat + 1 := toNat_succ (by omega)
  refine ⟨?_, nofun, fun _ => ?_, fun _ => ?_⟩
  · show (e.count + 1).toNat ≤ 10
    omega
  · show (e.count + 1).toNat ≤ 9
    omega
  · show (e.val >>> 7).toNat < 2 ^ (64 - 7 * (e.count + 1).toNat)
    rw [hval, hsucc]
    refine Nat.div_lt_of_lt_mul ?_
    rwa [← Nat.pow_add, show 7 + (64 - 7 * (e.count.toNat + 1)) = 64 - 7 * e.count.toNat by omega]

theorem DecUnit.reset_inv : DecUnit.reset.Inv := by constructor <;> decide

theorem group64_toNat_lt (b : Byte) : (group64 b).toNat < 2 ^ 7 := by
  have := (b.extractLsb' 0 7).isLt
  simp only [group64, BitVec.toNat_setWidth]
  omega

/-- A continuation byte adds its group above the bits held; byte 9 with a continuation bit overflows (R131). -/
theorem DecUnit.Inv.more {u : DecUnit} (h : u.Inv) {d : Byte} (hd : continues d = true)
    (hno : overflowsAt u.count.toNat d = false) :
    (⟨u.acc ||| group64 d <<< (7 * u.count.toNat), u.count + 1⟩ : DecUnit).Inv := by
  obtain ⟨hcount, hacc⟩ := h
  have hlt : u.count.toNat < 9 :=
    Nat.lt_of_le_of_ne hcount fun h9 => by simp [overflowsAt, h9, hd] at hno
  have hsucc : (u.count + 1).toNat = u.count.toNat + 1 := toNat_succ (by omega)
  refine ⟨?_, ?_⟩
  · show (u.count + 1).toNat ≤ 9
    omega
  · show (u.acc ||| group64 d <<< (7 * u.count.toNat)).toNat < 2 ^ (7 * (u.count + 1).toNat)
    rw [hsucc, BitVec.toNat_or, BitVec.toNat_shiftLeft, Nat.shiftLeft_eq]
    refine Nat.or_lt_two_pow (hacc.trans_le (Nat.pow_le_pow_right (by decide) (by omega))) ?_
    calc (group64 d).toNat * 2 ^ (7 * u.count.toNat) % 2 ^ 64
        ≤ (group64 d).toNat * 2 ^ (7 * u.count.toNat) := Nat.mod_le _ _
      _ < 2 ^ 7 * 2 ^ (7 * u.count.toNat) :=
          Nat.mul_lt_mul_of_pos_right (group64_toNat_lt d) (Nat.two_pow_pos _)
      _ = 2 ^ (7 * (u.count.toNat + 1)) := by rw [← Nat.pow_add, Nat.mul_add, Nat.add_comm, Nat.mul_one]

theorem TxUnit.inv_idle {x : TxUnit} (h : x.state = .idle) : x.Inv := by constructor <;> simp [h]

theorem TxUnit.inv_open {n : U64} (hn : n.toNat ≤ 255) :
    (⟨if n = 0 then .trailer else .body, n.setWidth 8, 0, Config.crcInit⟩ : TxUnit).Inv := by
  split
  · next h0 => exact ⟨nofun, fun _ => h0 ▸ rfl⟩
  · next h0 =>
    refine ⟨fun _ => ?_, nofun⟩
    have hpos : n.toNat ≠ 0 := fun h => h0 (BitVec.eq_of_toNat_eq h)
    show 0 < (n.setWidth 8).toNat
    rw [BitVec.toNat_setWidth]
    omega

theorem TxUnit.Inv.byte {x : TxUnit} (h : x.Inv) (hx : x.state = .body) (c : Byte) :
    (⟨if x.cnt + 1 = x.len then .trailer else .body, x.len, x.cnt + 1, c⟩ : TxUnit).Inv := by
  split
  · next hk => exact ⟨nofun, fun _ => hk⟩
  · next hk => exact ⟨fun _ => toNat_succ_lt_of_ne (h.body hx) hk, nofun⟩

theorem RxUnit.inv_len {x : RxUnit} {m : Memory} (h : x.state = .len) (hm : m.wf) : x.Inv m := by
  refine ⟨?_, ?_, ?_, ?_, hm⟩ <;> simp [h]

theorem RxUnit.inv_start {m : Memory} (hm : m.wf) (d : Byte) :
    (⟨if d = 0 then .crc else .body, true, d, 0, Config.crcInit⟩ : RxUnit).Inv m := by
  split
  · next h0 => exact ⟨nofun, fun _ => h0.symm, fun _ => crc8_nil.symm, fun _ => rfl, hm⟩
  · next h0 =>
    have hpos : 0 < d.toNat := Nat.pos_of_ne_zero fun hd => h0 (BitVec.eq_of_toNat_eq hd)
    exact ⟨fun _ => hpos, nofun, fun _ => crc8_nil.symm, fun _ => rfl, hm⟩

/-- The entries below the one written are read as before. -/
theorem Memory.map_read_write_range (m : Memory) (k : Nat) (d : Byte) :
    (List.range (k + 1)).map (m.write k d).read = (List.range k).map m.read ++ [d] := by
  have hbelow : (List.range k).map (m.write k d).read = (List.range k).map m.read :=
    List.map_congr_left fun a ha => m.read_write_other d (Nat.ne_of_lt (List.mem_range.1 ha))
  simp [List.range_succ, hbelow]

/-- RX_CTL and RX_BUF after a payload byte d (R180): CNT and CRC have taken in d, and so has entry CNT. -/
theorem RxUnit.Inv.payload {x : RxUnit} {m : Memory} (h : x.Inv m) (hx : x.state = .body) (d : Byte) :
    (⟨if x.cnt + 1 = x.len then .crc else .body, true, x.len, x.cnt + 1, crcStep x.crc d⟩ : RxUnit).Inv
      (m.write x.cnt.toNat d) := by
  have hlt := h.body hx
  have hcrc : crcStep x.crc d = crc8 ((List.range (x.cnt + 1).toNat).map (m.write x.cnt.toNat d).read) := by
    rw [toNat_succ_of_lt hlt, m.map_read_write_range, crc8_append_singleton, ← h.crc (by simp [hx])]
  have hwf : (m.write x.cnt.toNat d).wf :=
    Memory.wf_write h.bufWf (Nat.lt_of_lt_of_le hlt (Nat.le_of_lt_succ x.len.isLt)) d
  split
  · next hk => exact ⟨nofun, fun _ => hk, fun _ => hcrc, fun _ => rfl, hwf⟩
  · next hk => exact ⟨fun _ => toNat_succ_lt_of_ne hlt hk, nofun, fun _ => hcrc, fun _ => rfl, hwf⟩

end Sys2Proof.Machine
end

section
/-! What each command with more than one outcome answers, one equation per outcome. Each reads its unit's registers through a
name of its own, so that it can be used of two states that agree on the unit. -/

namespace Sys2Proof.Machine

variable {s : State}

/-! ### The varuint encoder (R121) -/

theorem exec_encNext_idle {e : EncUnit} (he : s.enc = e) (ha : ¬ e.active = true) :
    exec .encNext s = .next (s.pushRsp { status := .errSequence }) := by
  subst he
  exact if_neg ha

theorem exec_encNext_last {e : EncUnit} (he : s.enc = e) (ha : e.active = true) (hrest : e.val >>> 7 = 0) :
    exec .encNext s = .next ((s.setEnc ⟨0, false, e.count + 1⟩).pushRsp
      { status := .done, bvalid := true, byte := lowGroup e.val, count := (e.count + 1).setWidth 8 }) := by
  subst he
  exact (if_pos ha).trans (if_pos hrest)

theorem exec_encNext_more {e : EncUnit} (he : s.enc = e) (ha : e.active = true) (hrest : ¬ e.val >>> 7 = 0) :
    exec .encNext s = .next ((s.setEnc ⟨e.val >>> 7, true, e.count + 1⟩).pushRsp
      { status := .ok, bvalid := true, byte := 0x80#8 ||| lowGroup e.val, count := (e.count + 1).setWidth 8 }) := by
  subst he
  exact (if_pos ha).trans (if_neg hrest)

/-! ### The varuint decoder (R131, R132) -/

theorem exec_decByte_overflow {u : DecUnit} {d : Byte} (hu : s.dec = u) (ho : overflowsAt u.count.toNat d = true) :
    exec (.decByte d) s = .next ((s.setDec DecUnit.reset).pushRsp { status := .errMalformedVaruint, count := 10 }) := by
  subst hu
  exact if_pos ho

theorem exec_decByte_more {u : DecUnit} {d : Byte} (hu : s.dec = u) (ho : ¬ overflowsAt u.count.toNat d = true)
    (hc : continues d = true) :
    exec (.decByte d) s =
      .next ((s.setDec ⟨u.acc ||| group64 d <<< (7 * u.count.toNat), u.count + 1⟩).pushRsp
        { status := .ok, count := (u.count + 1).setWidth 8 }) := by
  subst hu
  exact (if_neg ho).trans (if_pos hc)

theorem exec_decByte_last {u : DecUnit} {d : Byte} (hu : s.dec = u) (ho : ¬ overflowsAt u.count.toNat d = true)
    (hc : ¬ continues d = true) :
    exec (.decByte d) s = .next ((s.setDec DecUnit.reset).pushRsp
      { status := .done, value := u.acc ||| group64 d <<< (7 * u.count.toNat), count := (u.count + 1).setWidth 8 }) := by
  subst hu
  exact (if_neg ho).trans (if_neg hc)

theorem exec_decEnd {u : DecUnit} (hu : s.dec = u) :
    exec .decEnd s = .next ((s.setDec DecUnit.reset).pushRsp
      { status := .errMalformedVaruint, count := u.count.setWidth 8 }) := by
  subst hu
  rfl

/-! ### The CRC unit (R146) -/

theorem exec_crcByte {c : Byte} (d : Byte) (hc : s.crcAcc = c) :
    exec (.crcByte d) s = .next ((s.setCrc (crcStep c d)).pushRsp
      { status := .ok, value := zext64 (crcStep c d) }) := by
  subst hc
  rfl

/-! ### The framer (R170 to R173) -/

theorem exec_txStart_busy {x : TxUnit} (n : U64) (hx : s.tx = x) (hbusy : x.state ≠ .idle) :
    exec (.txStart n) s = .next (s.pushRsp { status := .errSequence }) := by
  subst hx
  exact if_pos hbusy

theorem exec_txStart_tooLarge {x : TxUnit} {n : U64} (hx : s.tx = x) (hidle : x.state = .idle) (hn : 255 < n.toNat) :
    exec (.txStart n) s = .next (s.pushRsp { status := .errPayloadTooLarge }) := by
  subst hx
  exact (if_neg (not_not.2 hidle)).trans (if_pos hn)

theorem exec_txStart_open {x : TxUnit} {n : U64} (hx : s.tx = x) (hidle : x.state = .idle) (hn : n.toNat ≤ 255) :
    exec (.txStart n) s =
      .next ((s.setTx ⟨if n = 0 then .trailer else .body, n.setWidth 8, 0, Config.crcInit⟩).pushRsp
        { status := .ok, bvalid := true, byte := n.setWidth 8, count := n.setWidth 8 }) := by
  subst hx
  exact (if_neg (not_not.2 hidle)).trans (if_neg (Nat.not_lt.2 hn))

theorem exec_txByte_refused {x : TxUnit} (d : Byte) (hx : s.tx = x) (hstate : x.state ≠ .body) :
    exec (.txByte d) s = .next (s.pushRsp { status := .errSequence }) := by
  subst hx
  exact if_pos hstate

theorem exec_txByte_body {x : TxUnit} (d : Byte) (hx : s.tx = x) (hbody : x.state = .body) :
    exec (.txByte d) s =
      .next ((s.setTx ⟨if x.cnt + 1 = x.len then .trailer else .body, x.len, x.cnt + 1, crcStep x.crc d⟩).pushRsp
        { status := .ok, bvalid := true, byte := d, count := x.cnt + 1 }) := by
  subst hx
  exact if_neg (not_not.2 hbody)

theorem exec_txEnd_refused {x : TxUnit} (hx : s.tx = x) (hstate : x.state ≠ .trailer) :
    exec .txEnd s = .next (s.pushRsp { status := .errSequence }) := by
  subst hx
  exact if_pos hstate

theorem exec_txEnd_trailer {x : TxUnit} (hx : s.tx = x) (htrailer : x.state = .trailer) :
    exec .txEnd s = .next ((s.setTx { x with state := .idle }).pushRsp
      { status := .done, bvalid := true, byte := x.crc, value := zext64 x.crc, count := x.len }) := by
  subst hx
  exact if_neg (not_not.2 htrailer)

theorem exec_txAbort {x : TxUnit} (hx : s.tx = x) :
    exec .txAbort s = .next ((s.setTx TxUnit.reset).pushRsp { status := .ok, count := x.cnt }) := by
  subst hx
  rfl

/-! ### The deframer (R180 to R182) -/

theorem exec_rxByte_len {x : RxUnit} (d : Byte) (hx : s.rx = x) (hlen : x.state = .len) :
    exec (.rxByte d) s =
      .next ((s.setRx ⟨if d = 0 then .crc else .body, true, d, 0, Config.crcInit⟩).pushRsp
        { status := .ok, count := d }) := by
  subst hx
  simp only [exec, execRxByte, hlen]
  rfl

theorem exec_rxByte_body {x : RxUnit} {m : Memory} (d : Byte) (hx : s.rx = x) (hm : s.rxBuf = m)
    (hbody : x.state = .body) (hroom : x.cnt.toNat < 255) :
    exec (.rxByte d) s =
      .next (((s.setRxBuf (m.write x.cnt.toNat d)).setRx
        ⟨if x.cnt + 1 = x.len then .crc else .body, true, x.len, x.cnt + 1, crcStep x.crc d⟩).pushRsp
        { status := .ok, count := x.cnt + 1 }) := by
  subst hx hm
  simp only [exec, execRxByte, hbody, rxPayloadByte, State.memWrite_of_lt s hroom]
  rfl

theorem exec_rxByte_full {x : RxUnit} (d : Byte) (hx : s.rx = x) (hbody : x.state = .body) (hfull : 255 ≤ x.cnt.toNat) :
    exec (.rxByte d) s = .fault .rxBufIndex := by
  subst hx
  simp only [exec, execRxByte, hbody, rxPayloadByte, State.memWrite_of_ge s hfull]

theorem exec_rxByte_trailer {x : RxUnit} (d : Byte) (hx : s.rx = x) (hcrc : x.state = .crc) :
    exec (.rxByte d) s =
      .next ((s.setRx { x with state := .len, seen := true }).pushRsp
        (if d = x.crc then { status := .done, value := zext64 x.crc, count := x.len }
          else { status := .errChecksumMismatch, value := (d ++ x.crc).setWidth 64, count := x.len })) := by
  subst hx
  simp only [exec, execRxByte, hcrc, rxTrailerByte]
  split <;> rfl

theorem exec_rxEos_empty {x : RxUnit} (hx : s.rx = x) (hlen : x.state = .len) (hseen : x.seen = false) :
    exec .rxEos s = .next (s.pushRsp { status := .errEmptyStream }) := by
  subst hx
  simp only [exec, execRxEos, hlen, hseen]
  rfl

theorem exec_rxEos_clean {x : RxUnit} (hx : s.rx = x) (hlen : x.state = .len) (hseen : x.seen = true) :
    exec .rxEos s = .next ((s.setRx { x with seen := false }).pushRsp { status := .streamEnd }) := by
  subst hx
  simp only [exec, execRxEos, hlen, hseen]
  rfl

theorem exec_rxEos_truncated {x : RxUnit} (hx : s.rx = x) (hstate : x.state ≠ .len) :
    exec .rxEos s = .next ((s.setRx { x with state := .len, seen := false }).pushRsp
      { status := .errTruncatedStream, value := x.state.code.setWidth 64, count := x.cnt }) := by
  subst hx
  simp only [exec, execRxEos]
  split
  · next hlen _ => exact absurd hlen hstate
  · next hlen _ => exact absurd hlen hstate
  · rfl

theorem exec_rxRdbuf_range {i : Byte} (hi : 254 < i.toNat) :
    exec (.rxRdbuf i) s = .next (s.pushRsp { status := .errRange }) :=
  if_pos hi

theorem exec_rxRdbuf_read {m : Memory} {i : Byte} (hm : s.rxBuf = m) (hi : ¬ 254 < i.toNat) :
    exec (.rxRdbuf i) s = .next (s.pushRsp { status := .ok, value := zext64 (m.read i.toNat) }) := by
  subst hm
  simp only [exec, execRxRdbuf, if_neg hi, s.memRead_of_lt (Nat.lt_succ_of_le (Nat.not_lt.1 hi))]
  rfl

end Sys2Proof.Machine
end

section
/-! A unit's command reads and writes its own unit alone (10_state R34): said once for each unit, together with what the
command makes of the unit's part of the invariants. -/

namespace Sys2Proof.Machine

/-- The state with one unit's registers (for RX, RX_BUF too) those of another state. -/
def State.withUnit (s : State) (u : UnitName) (t : State) : State :=
  match u with
  | .control => s
  | .enc => s.setEnc t.enc
  | .dec => s.setDec t.dec
  | .crc => s.setCrc t.crcAcc
  | .tx => s.setTx t.tx
  | .rx => (s.setRxBuf t.rxBuf).setRx t.rx

theorem sameUnit_refl (u : UnitName) (s : State) : sameUnit u s s := by
  cases u <;> simp [sameUnit]

theorem sameUnit_pushRsp (u : UnitName) (s : State) (r : Response) : sameUnit u s (s.pushRsp r) := by
  cases u <;> simp [sameUnit]

theorem sameUnit_withUnit_pushRsp (u : UnitName) (s t : State) (r : Response) :
    sameUnit u t ((s.withUnit u t).pushRsp r) := by
  cases u <;> simp [sameUnit, State.withUnit]

theorem sameUnit_withUnit_self (u : UnitName) (s s' t : State) (r : Response) :
    sameUnit u ((s.withUnit u t).pushRsp r) ((s'.withUnit u t).pushRsp r) := by
  cases u <;> simp [sameUnit, State.withUnit]

theorem sameUnit_withUnit_other {u v : UnitName} (h : v ≠ u) (s t : State) (r : Response) :
    sameUnit v s ((s.withUnit u t).pushRsp r) := by
  cases u <;> cases v <;> simp_all [sameUnit, State.withUnit]

@[simp] theorem State.withUnit_hostCmd (s : State) (u : UnitName) (t : State) :
    (s.withUnit u t).hostCmd = s.hostCmd := by
  cases u <;> rfl

@[simp] theorem State.withUnit_hostRsp (s : State) (u : UnitName) (t : State) :
    (s.withUnit u t).hostRsp = s.hostRsp := by
  cases u <;> rfl

theorem State.withUnit_eq_self {u : UnitName} {s t : State} (h : sameUnit u t s) : s.withUnit u t = s := by
  cases u with
  | control => rfl
  | enc => exact congrArg s.setEnc (show t.enc = s.enc from h)
  | dec => exact congrArg s.setDec (show t.dec = s.dec from h)
  | crc => exact congrArg s.setCrc (show t.crcAcc = s.crcAcc from h)
  | tx => exact congrArg s.setTx (show t.tx = s.tx from h)
  | rx =>
    obtain ⟨hrx, hbuf⟩ : t.rx = s.rx ∧ t.rxBuf = s.rxBuf := h
    exact congrArg₂ (fun x m => (s.setRxBuf m).setRx x) hrx hbuf

/-- A command of a unit answers, and its unit's registers become those of t, with one response, in every state that
agrees with s on that unit; and they still meet the invariants if they did. -/
structure LocalAnswer (i : Instr) (s t : State) : Prop where
  answers : ∃ r, ∀ s', sameUnit (unitOf i) s s' → exec i s' = .next ((s'.withUnit (unitOf i) t).pushRsp r)
  keeps : s.UnitInv (unitOf i) → t.UnitInv (unitOf i)

/-- A command that only responds: an error that writes nothing, or a read. -/
theorem LocalAnswer.of_pushRsp {i : Instr} {s : State} (r : Response)
    (h : ∀ s', sameUnit (unitOf i) s s' → exec i s' = .next (s'.pushRsp r)) : LocalAnswer i s s where
  answers := ⟨r, fun s' hs => by rw [h s' hs, State.withUnit_eq_self hs]⟩
  keeps := id

/-! ### The units -/

theorem exec_crc_local {i : Instr} (hi : unitOf i = .crc) (s : State) : ∃ t, LocalAnswer i s t := by
  cases i <;> simp only [unitOf, reduceCtorEq] at hi
  case crcClr => exact ⟨s.setCrc Config.crcInit, ⟨_, fun _ _ => rfl⟩, id⟩
  case crcByte d => exact ⟨s.setCrc (crcStep s.crcAcc d), ⟨_, fun _ hs => exec_crcByte d hs.symm⟩, id⟩

theorem exec_enc_local {i : Instr} (hi : unitOf i = .enc) (s : State) : ∃ t, LocalAnswer i s t := by
  cases i <;> simp only [unitOf, reduceCtorEq] at hi
  case encLoad v => exact ⟨s.setEnc ⟨v, true, 0⟩, ⟨_, fun _ _ => rfl⟩, fun _ => EncUnit.inv_load v⟩
  case encNext =>
    by_cases ha : s.enc.active = true
    · by_cases hrest : s.enc.val >>> 7 = 0
      · exact ⟨s.setEnc _, ⟨_, fun _ hs => exec_encNext_last hs.symm ha hrest⟩, fun h => h.last ha⟩
      · exact ⟨s.setEnc _, ⟨_, fun _ hs => exec_encNext_more hs.symm ha hrest⟩, fun h => h.more ha hrest⟩
    · exact ⟨s, .of_pushRsp _ fun _ hs => exec_encNext_idle hs.symm ha⟩

theorem exec_dec_local {i : Instr} (hi : unitOf i = .dec) (s : State) : ∃ t, LocalAnswer i s t := by
  cases i <;> simp only [unitOf, reduceCtorEq] at hi
  case decClr => exact ⟨s.setDec DecUnit.reset, ⟨_, fun _ _ => rfl⟩, fun _ => DecUnit.reset_inv⟩
  case decEnd => exact ⟨s.setDec _, ⟨_, fun _ hs => exec_decEnd hs.symm⟩, fun _ => DecUnit.reset_inv⟩
  case decByte d =>
    by_cases ho : overflowsAt s.dec.count.toNat d = true
    · exact ⟨s.setDec _, ⟨_, fun _ hs => exec_decByte_overflow hs.symm ho⟩, fun _ => DecUnit.reset_inv⟩
    · by_cases hc : continues d = true
      · exact ⟨s.setDec _, ⟨_, fun _ hs => exec_decByte_more hs.symm ho hc⟩,
          fun h => h.more hc (Bool.eq_false_iff.2 ho)⟩
      · exact ⟨s.setDec _, ⟨_, fun _ hs => exec_decByte_last hs.symm ho hc⟩, fun _ => DecUnit.reset_inv⟩

theorem exec_tx_local {i : Instr} (hi : unitOf i = .tx) (s : State) : ∃ t, LocalAnswer i s t := by
  cases i <;> simp only [unitOf, reduceCtorEq] at hi
  case txStart n =>
    by_cases hidle : s.tx.state = .idle
    · by_cases hn : n.toNat ≤ 255
      · exact ⟨s.setTx _, ⟨_, fun _ hs => exec_txStart_open hs.symm hidle hn⟩, fun _ => TxUnit.inv_open hn⟩
      · exact ⟨s, .of_pushRsp _ fun _ hs => exec_txStart_tooLarge hs.symm hidle (Nat.lt_of_not_le hn)⟩
    · exact ⟨s, .of_pushRsp _ fun _ hs => exec_txStart_busy n hs.symm hidle⟩
  case txByte d =>
    by_cases hbody : s.tx.state = .body
    · exact ⟨s.setTx _, ⟨_, fun _ hs => exec_txByte_body d hs.symm hbody⟩, fun h => h.byte hbody _⟩
    · exact ⟨s, .of_pushRsp _ fun _ hs => exec_txByte_refused d hs.symm hbody⟩
  case txEnd =>
    by_cases htrailer : s.tx.state = .trailer
    · exact ⟨s.setTx _, ⟨_, fun _ hs => exec_txEnd_trailer hs.symm htrailer⟩, fun _ => TxUnit.inv_idle rfl⟩
    · exact ⟨s, .of_pushRsp _ fun _ hs => exec_txEnd_refused hs.symm htrailer⟩
  case txAbort => exact ⟨s.setTx _, ⟨_, fun _ hs => exec_txAbort hs.symm⟩, fun _ => TxUnit.inv_idle rfl⟩

/-- RX_BUF has an entry for the byte that the command would write: false of RX_BYTE alone, and only where R32 says no run
comes (log 5). -/
def HasEntry (i : Instr) (s : State) : Prop := ∀ d, i = .rxByte d → s.rx.state = .body → s.rx.cnt.toNat < 255

theorem hasEntry_of_inv {s : State} (h : s.Inv) (i : Instr) : HasEntry i s := fun _ _ hx =>
  Nat.lt_of_lt_of_le (h.rxBody hx) (Nat.le_of_lt_succ s.rx.len.isLt)

theorem hasEntry_of_exec {i : Instr} {s t : State} (h : exec i s = .next t) : HasEntry i s := by
  rintro d rfl hx
  exact Nat.lt_of_not_le fun hfull => nomatch (exec_rxByte_full d rfl hx hfull).symm.trans h

/-- A response alone leaves RX_CTL as it was. -/
theorem exec_eq_setRx_self {i : Instr} {s : State} {x : RxUnit} {r : Response} (hx : s.rx = x)
    (h : exec i s = .next (s.pushRsp r)) : exec i s = .next ((s.setRx x).pushRsp r) := by
  subst hx
  exact h

/-- Every RX command but a payload byte writes RX_CTL alone (R30, R180 to R182). -/
theorem exec_rx_setRx {i : Instr} (hi : unitOf i = .rx) (s : State)
    (hp : (∀ d, i ≠ .rxByte d) ∨ s.rx.state ≠ .body) :
    ∃ x r, (s.rx.Inv s.rxBuf → x.Inv s.rxBuf) ∧
      ∀ s', s'.rx = s.rx → s'.rxBuf = s.rxBuf → exec i s' = .next ((s'.setRx x).pushRsp r) := by
  cases i <;> simp only [unitOf, reduceCtorEq] at hi
  case rxByte d =>
    cases hx : s.rx.state with
    | len => exact ⟨_, _, fun h => RxUnit.inv_start h.bufWf d, fun _ hs _ => exec_rxByte_len d hs hx⟩
    | body => exact (hp.elim (· d rfl) (· hx)).elim
    | crc => exact ⟨_, _, fun h => RxUnit.inv_len rfl h.bufWf, fun _ hs _ => exec_rxByte_trailer d hs hx⟩
  case rxEos =>
    by_cases hx : s.rx.state = .len
    · cases hseen : s.rx.seen with
      | true =>
        exact ⟨{ s.rx with seen := false }, _, fun h => RxUnit.inv_len hx h.bufWf,
          fun _ hs _ => exec_rxEos_clean hs hx hseen⟩
      | false => exact ⟨s.rx, _, id, fun _ hs _ => exec_eq_setRx_self hs (exec_rxEos_empty hs hx hseen)⟩
    · exact ⟨_, _, fun h => RxUnit.inv_len rfl h.bufWf, fun _ hs _ => exec_rxEos_truncated hs hx⟩
  case rxRdbuf n =>
    by_cases hn : 254 < n.toNat
    · exact ⟨s.rx, _, id, fun _ hs _ => exec_eq_setRx_self hs (exec_rxRdbuf_range hn)⟩
    · exact ⟨s.rx, _, id, fun _ hs hm => exec_eq_setRx_self hs (exec_rxRdbuf_read hm hn)⟩

theorem exec_rx_local {i : Instr} (hi : unitOf i = .rx) (s : State) (hroom : HasEntry i s) :
    ∃ t, LocalAnswer i s t := by
  by_cases hp : (∃ d, i = .rxByte d) ∧ s.rx.state = .body
  · obtain ⟨⟨d, rfl⟩, hx⟩ := hp
    exact ⟨(s.setRxBuf _).setRx _, ⟨_, fun _ hs => exec_rxByte_body d hs.1.symm hs.2.symm hx (hroom d rfl hx)⟩,
      fun h => h.payload hx d⟩
  · rw [not_and_or, not_exists] at hp
    obtain ⟨x, r, hkeeps, hx⟩ := exec_rx_setRx hi s hp
    refine ⟨s.setRx x, ⟨r, fun s' hs => ?_⟩, ?_⟩
    · rw [hi] at hs ⊢
      obtain ⟨hrx, hbuf⟩ : s.rx = s'.rx ∧ s.rxBuf = s'.rxBuf := hs
      rw [hx s' hrx.symm hbuf.symm]
      simp [State.withUnit, hbuf, State.setRxBuf]
    · rw [hi]
      exact hkeeps

/-- The control commands but SRST only respond (R34). -/
theorem exec_control {i : Instr} (hi : unitOf i = .control) (hne : i ≠ .srst) (s : State) :
    ∃ r, exec i s = .next (s.pushRsp r) := by
  cases i <;> simp only [unitOf, reduceCtorEq] at hi
  case nop => exact ⟨_, rfl⟩
  case srst => exact absurd rfl hne
  case regRd n =>
    simp only [exec, execRegRd]
    split
    · exact ⟨_, rfl⟩
    · exact ⟨_, rfl⟩

/-- A unit's command answers, reads its own unit alone and writes no other, and keeps its unit's invariants. -/
theorem exec_local {i : Instr} (hi : unitOf i ≠ .control) {s : State} (hroom : HasEntry i s) :
    ∃ t, LocalAnswer i s t := by
  cases hu : unitOf i with
  | control => exact absurd hu hi
  | enc => exact exec_enc_local hu s
  | dec => exact exec_dec_local hu s
  | crc => exact exec_crc_local hu s
  | tx => exact exec_tx_local hu s
  | rx => exact exec_rx_local hu s hroom

end Sys2Proof.Machine
end

section
/-! Statements on the units and RX_BUF (10_state R30, R34). -/

namespace Sys2Proof.Machine

/-- Settles O16: a unit's command changes the registers of its unit, and a control command only responds. -/
theorem unitsWriteOnlyTheirOwnRegisters : Obligations.UnitsWriteOnlyTheirOwnRegisters := by
  intro i s t hne h
  by_cases hi : unitOf i = .control
  · obtain ⟨r, hr⟩ := exec_control hi hne s
    obtain rfl := Host.Outcome.next.inj (hr.symm.trans h)
    exact ⟨fun u _ => sameUnit_pushRsp u s r, fun _ => ⟨r, rfl⟩, rfl⟩
  · obtain ⟨v, ⟨r, hr⟩, -⟩ := exec_local hi (hasEntry_of_exec h)
    obtain rfl := Host.Outcome.next.inj ((hr s (sameUnit_refl _ s)).symm.trans h)
    exact ⟨fun u hu => sameUnit_withUnit_other hu s v r, fun hc => absurd hc hi, s.withUnit_hostCmd _ v⟩

/-- Settles O17: the answer of a unit's command is one and the same in every state that agrees on the unit. -/
theorem unitsReadOnlyTheirOwnRegisters : Obligations.UnitsReadOnlyTheirOwnRegisters := by
  intro i s s' t hi hs h
  obtain ⟨v, ⟨r, hr⟩, -⟩ := exec_local hi (hasEntry_of_exec h)
  obtain rfl := Host.Outcome.next.inj ((hr s (sameUnit_refl _ s)).symm.trans h)
  exact ⟨_, r, hr s' hs, sameUnit_withUnit_self _ s s' v r, by simp, by simp⟩

/-- Every command but a payload byte leaves RX_BUF as it was (R30). -/
theorem exec_keeps_rxBuf {i : Instr} {s t : State} (h : exec i s = .next t)
    (hp : (∀ d, i ≠ .rxByte d) ∨ s.rx.state ≠ .body) : t.rxBuf = s.rxBuf := by
  by_cases hrx : unitOf i = .rx
  · obtain ⟨x, r, -, hx⟩ := exec_rx_setRx hrx s hp
    obtain rfl := Host.Outcome.next.inj ((hx s rfl rfl).symm.trans h)
    rfl
  · by_cases hne : i = .srst
    · subst hne
      cases h
      rfl
    · obtain ⟨hother, -, -⟩ := unitsWriteOnlyTheirOwnRegisters i s t hne h
      exact (hother .rx (Ne.symm hrx)).2.symm

/-- Settles O19: a payload byte is written to entry CNT, and every other command keeps RX_BUF. -/
theorem rxBufChangesOnlyAtThePayloadIndex : Obligations.RxBufChangesOnlyAtThePayloadIndex := by
  intro i s t h
  refine ⟨?_, exec_keeps_rxBuf h⟩
  rintro d rfl hx
  have hw := exec_rxByte_body d rfl rfl hx (hasEntry_of_exec h d rfl hx)
  obtain rfl := Host.Outcome.next.inj (h.symm.trans hw)
  exact ⟨by simp, fun a ha => by simpa using s.rxBuf.read_write_other d ha⟩

end Sys2Proof.Machine
end

section
/-! Reset, and that every step answers and keeps the invariants (10_state R32, R40, R41; 70_reset R263, R275). -/

namespace Sys2Proof.Machine

/-- The registers after power-on or SRST meet the invariants, whatever RX_BUF and the host's fields hold. -/
theorem State.inv_of_reset {s : State} (henc : s.enc = EncUnit.reset) (hdec : s.dec = DecUnit.reset)
    (htx : s.tx = TxUnit.reset) (hrx : s.rx = RxUnit.reset) (hbuf : s.rxBuf.wf) : s.Inv := by
  refine s.inv_iff.2 fun u => ?_
  cases u with
  | control => trivial
  | crc => trivial
  | enc => exact (henc ▸ EncUnit.reset_inv : s.enc.Inv)
  | dec => exact (hdec ▸ DecUnit.reset_inv : s.dec.Inv)
  | tx => exact (htx ▸ TxUnit.inv_idle rfl : s.tx.Inv)
  | rx => exact (hrx ▸ RxUnit.inv_len rfl hbuf : s.rx.Inv s.rxBuf)

/-- Settles O14: every register is at its reset value and RX_BUF's list is empty. -/
theorem resetMeetsTheInvariants : Obligations.ResetMeetsTheInvariants :=
  State.inv_of_reset rfl rfl rfl rfl Memory.wf_nil

/-- Settles O7: SRST writes power-on's registers over the state's own. -/
theorem resetAndSoftResetValues : Obligations.ResetAndSoftResetValues :=
  ⟨⟨rfl, rfl, rfl, rfl, rfl, fun i _ => Memory.read_nil i⟩, decode_append .srst, fun _ => rfl⟩

/-- In a state that meets the invariants a command answers a state that meets them: SRST resets the registers, a control
command writes none, and a unit's command keeps its unit's clauses and leaves the other units alone. -/
theorem exec_keeps_inv {s : State} (h : s.Inv) (i : Instr) : ∃ t, exec i s = .next t ∧ t.Inv := by
  by_cases hne : i = .srst
  · subst hne
    exact ⟨_, rfl, State.inv_of_reset rfl rfl rfl rfl h.rxBufWf⟩
  · by_cases hi : unitOf i = .control
    · obtain ⟨r, hr⟩ := exec_control hi hne s
      exact ⟨_, hr, h.congr fun u => sameUnit_pushRsp u s r⟩
    · obtain ⟨v, ⟨r, hr⟩, hkeeps⟩ := exec_local hi (hasEntry_of_inv h i)
      refine ⟨_, hr s (sameUnit_refl _ s), (State.inv_iff _).2 fun u => ?_⟩
      by_cases hu : u = unitOf i
      · subst hu
        exact (hkeeps (s.inv_iff.1 h _)).congr (sameUnit_withUnit_pushRsp _ s v r)
      · exact (s.inv_iff.1 h u).congr (sameUnit_withUnit_other hu s v r)

/-- Settles O12: a command's word runs the command, and an illegal one only responds. -/
theorem everyCommandWordCompletes : Obligations.EveryCommandWordCompletes := by
  intro s w h
  cases hw : decode w with
  | command i =>
    rw [runWord_of_command hw]
    exact exec_keeps_inv h i
  | illegal op => exact ⟨_, runWord_of_illegal hw s, h.congr fun u => sameUnit_pushRsp u s _⟩

theorem sameUnit_hostCmd (u : UnitName) (s : State) (ws : List CmdWord) : sameUnit u s { s with hostCmd := ws } := by
  cases u <;> simp [sameUnit]

/-- Settles O15: a step waits, or runs a word on the state without it, which completes with the invariants kept. -/
theorem stepKeepsTheInvariants : Obligations.StepKeepsTheInvariants := by
  intro s t h hstep
  cases hq : s.hostCmd with
  | nil =>
    rw [step_of_nil hq] at hstep
    cases hstep
    exact h
  | cons w ws =>
    rw [step_of_cons hq] at hstep
    obtain ⟨t', ht', hinv⟩ := everyCommandWordCompletes _ w (h.congr fun u => sameUnit_hostCmd u s ws)
    obtain rfl := Host.Outcome.next.inj (ht'.symm.trans hstep)
    exact hinv

/-- A word that answers leaves the host's words as they were and adds one response to those received. -/
theorem runWord_eq_next {w : CmdWord} {s t : State} (h : runWord w s = .next t) :
    t.hostCmd = s.hostCmd ∧ ∃ r, t.hostRsp = s.hostRsp ++ [r] := by
  cases hw : decode w with
  | command i =>
    rw [runWord_of_command hw] at h
    obtain ⟨u, r, rfl, hcmd, hrsp⟩ := exec_eq_next h
    exact ⟨hcmd, r, by simp [hrsp]⟩
  | illegal op =>
    rw [runWord_of_illegal hw] at h
    cases h
    exact ⟨rfl, _, rfl⟩

/-- Settles O10: the step takes its word from the queue and the word adds the response. -/
theorem eachCommandGetsOneResponse : Obligations.EachCommandGetsOneResponse := by
  intro s t w ws hq h
  rw [step_of_cons hq] at h
  exact runWord_eq_next h

end Sys2Proof.Machine
end

section
/-! TX_CTL in an open frame (10_state R28, R32): it counts and checks the payload bytes passed. -/

namespace Sys2Proof.Machine

/-- TX_CTL in a frame of n payload bytes of which these have been passed. -/
def txPassed (n : U64) (p : List Byte) : TxUnit :=
  ⟨if p.length = n.toNat then .trailer else .body, BitVec.ofNat 8 n.toNat, BitVec.ofNat 8 p.length, crc8 p⟩

theorem txPassed_nil (n : U64) :
    txPassed n [] = ⟨if n = 0 then .trailer else .body, n.setWidth 8, 0, Config.crcInit⟩ := by
  have h0 : 0 = n.toNat ↔ n = 0 := ⟨fun h => BitVec.eq_of_toNat_eq h.symm, fun h => h ▸ rfl⟩
  simp only [txPassed, List.length_nil, h0, crc8_nil]
  rfl

/-- One more TX_BYTE: it is passed while the frame is short of n bytes, and refused from then on. -/
theorem exec_txByte_txPassed {n : U64} {q : List Byte} {d : Byte} {s t : State} (hn : n.toNat ≤ 255)
    (hs : s.tx = txPassed n (q.take n.toNat)) (h : exec (.txByte d) s = .next t) :
    t.tx = txPassed n ((q ++ [d]).take n.toNat) := by
  by_cases hq : q.length < n.toNat
  · rw [List.take_of_length_le hq.le] at hs
    rw [List.take_of_length_le (by simpa using hq)]
    have hbody : (txPassed n q).state = .body := if_neg hq.ne
    obtain rfl := Host.Outcome.next.inj ((exec_txByte_body d hs hbody).symm.trans h)
    have hcnt : BitVec.ofNat 8 q.length + 1 = BitVec.ofNat 8 (q.length + 1) := by simp [BitVec.ofNat_add]
    have hlast : BitVec.ofNat 8 (q.length + 1) = BitVec.ofNat 8 n.toNat ↔ q.length + 1 = n.toNat := by
      rw [← BitVec.toNat_inj, BitVec.toNat_ofNat, BitVec.toNat_ofNat]
      omega
    simp only [State.pushRsp_tx, State.setTx_tx, txPassed, hcnt, hlast, crc8_append_singleton, List.length_append,
      List.length_singleton]
  · have hlen : (q.take n.toNat).length = n.toNat := List.length_take_of_le (Nat.not_lt.1 hq)
    have hstate : (txPassed n (q.take n.toNat)).state ≠ .body := by simp [txPassed, hlen]
    obtain rfl := Host.Outcome.next.inj ((exec_txByte_refused d hs hstate).symm.trans h)
    rw [List.take_append_of_le_length (Nat.not_lt.1 hq)]
    exact hs

/-- A command that keeps a frame open is a TX_BYTE or of another unit. -/
theorem unitOf_ne_tx {c : Instr} (hc : keepsFrameOpen c = true) (hd : txByteOf c = none) :
    unitOf c ≠ .tx ∧ c ≠ .srst := by
  cases c <;> simp_all [keepsFrameOpen, txByteOf, unitOf]

/-- Along commands that keep a frame open, TX_CTL covers the first n of the bytes offered. -/
theorem execAll_txPassed {n : U64} (hn : n.toNat ≤ 255) {cs : List Instr} {q : List Byte} {s t : State}
    (hcs : ∀ c ∈ cs, keepsFrameOpen c = true) (hs : s.tx = txPassed n (q.take n.toNat))
    (h : execAll cs s = .next t) : t.tx = txPassed n ((q ++ cs.filterMap txByteOf).take n.toNat) := by
  induction cs generalizing q s with
  | nil =>
    cases h
    simpa using hs
  | cons c cs ih =>
    obtain ⟨hc, hrest⟩ := List.forall_mem_cons.1 hcs
    simp only [execAll] at h
    split at h
    · next s' hs' =>
      cases hd : txByteOf c with
      | none =>
        obtain ⟨hu, hne⟩ := unitOf_ne_tx hc hd
        obtain ⟨hother, -, -⟩ := unitsWriteOnlyTheirOwnRegisters c s s' hne hs'
        have htx : s.tx = s'.tx := hother .tx hu.symm
        simpa [hd] using ih hrest (htx ▸ hs) h
      | some d =>
        obtain rfl : c = .txByte d := by cases c <;> simp_all [txByteOf]
        simpa [txByteOf] using ih hrest (exec_txByte_txPassed hn hs hs') h
    · nomatch h
    · nomatch h

/-- Settles O57: TX_START opens the frame with no byte passed, and what follows passes the first n bytes. -/
theorem txCrcCoversTheBytesPassed : Obligations.TxCrcCoversTheBytesPassed := by
  intro s t n cs hidle hn hcs h
  rw [execAll, exec_txStart_open rfl hidle hn, ← txPassed_nil] at h
  exact execAll_txPassed (q := []) hn hcs (congrArg (txPassed n) List.take_nil.symm) h

end Sys2Proof.Machine
end

section
/-! Where a command can stop (20_memory R50; log 5), and when RX_BYTE reports a packet (20_memory R61). -/

namespace Sys2Proof.Machine

theorem eq_255_iff_le_toNat (b : Byte) : b = 255 ↔ 255 ≤ b.toNat :=
  ⟨fun h => h ▸ Nat.le_refl 255, fun h => BitVec.eq_of_toNat_eq (Nat.le_antisymm (Nat.le_of_lt_succ b.isLt) h)⟩

/-- The missing entry is the one past RX_BUF's last, index 255 (R50). -/
theorem not_hasEntry_iff {i : Instr} {s : State} :
    ¬ HasEntry i s ↔ (∃ d, i = .rxByte d) ∧ s.rx.state = .body ∧ s.rx.cnt = 255 := by
  simp only [HasEntry, not_forall, Nat.not_lt, exists_prop, exists_and_right, eq_255_iff_le_toNat]

/-- Every command answers that does not write past RX_BUF, whether or not the state meets the invariants. -/
theorem exec_answers_of_hasEntry {i : Instr} {s : State} (hroom : HasEntry i s) : ∃ t, exec i s = .next t := by
  by_cases hi : unitOf i = .control
  · by_cases hne : i = .srst
    · exact hne ▸ ⟨_, rfl⟩
    · obtain ⟨r, hr⟩ := exec_control hi hne s
      exact ⟨_, hr⟩
  · obtain ⟨t, ⟨r, hr⟩, -⟩ := exec_local hi hroom
    exact ⟨_, hr s (sameUnit_refl _ s)⟩

/-- Settles O11: a command whose entry exists answers, and the one whose entry does not is RX_BYTE at index 255, which
faults. -/
theorem onlyStopIsAPayloadWritePastTheBuffer : Obligations.OnlyStopIsAPayloadWritePastTheBuffer := by
  intro i s
  rw [← not_hasEntry_iff]
  by_cases hroom : HasEntry i s
  · obtain ⟨t, ht⟩ := exec_answers_of_hasEntry hroom
    simp [ht, hroom]
  · obtain ⟨⟨d, rfl⟩, hx, hcnt⟩ := not_hasEntry_iff.1 hroom
    have hfault := exec_rxByte_full d rfl hx ((eq_255_iff_le_toNat _).1 hcnt)
    exact ⟨fun r => by simp [hfault], fun _ => hroom, fun _ => ⟨_, hfault⟩⟩

/-- The response a command adds is the one its equation names. -/
theorem response_of_exec {i : Instr} {s t u : State} {r r' : Response} (he : exec i s = .next (u.pushRsp r'))
    (hu : u.hostRsp = s.hostRsp) (h : exec i s = .next t) (hr : t.hostRsp = s.hostRsp ++ [r]) :
    t = u.pushRsp r' ∧ r = r' := by
  obtain rfl := Host.Outcome.next.inj (he.symm.trans h)
  simpa [hu, eq_comm] using hr

/-- A length byte and a payload byte are answered OK (R180), so what is reported is reported on a trailer. -/
theorem rxByte_state_of_status_ne_ok {d : Byte} {s t : State} {r : Response} (h : exec (.rxByte d) s = .next t)
    (hr : t.hostRsp = s.hostRsp ++ [r]) (hstatus : r.status ≠ .ok) : s.rx.state = .crc := by
  cases hx : s.rx.state with
  | len =>
    obtain ⟨-, rfl⟩ := response_of_exec (exec_rxByte_len d rfl hx) rfl h hr
    exact absurd rfl hstatus
  | body =>
    have hroom := hasEntry_of_exec h d rfl hx
    obtain ⟨-, rfl⟩ := response_of_exec (exec_rxByte_body d rfl rfl hx hroom) rfl h hr
    exact absurd rfl hstatus
  | crc => rfl

/-- Settles O56: a report is made on the trailer byte, where CNT = LEN and RX_CTL.CRC is the CRC of the entries below
CNT; the byte is compared with that register, and RX_BUF is not written. -/
theorem packetIsReportedOnlyWhenComplete : Obligations.PacketIsReportedOnlyWhenComplete := by
  intro s t d r hinv h hr hstatus
  have hx := rxByte_state_of_status_ne_ok h hr hstatus
  have hcnt : s.rx.cnt = s.rx.len := hinv.rxTrailer hx
  have hcrc : s.rx.crc = crc8 ((List.range s.rx.len.toNat).map s.rxBuf.read) := by
    rw [← hcnt]
    exact hinv.rxCrc (by simp [hx])
  obtain ⟨rfl, rfl⟩ := response_of_exec (exec_rxByte_trailer d rfl hx) rfl h hr
  by_cases hd : d = s.rx.crc <;> simp [hx, hcnt, ← hcrc, hd]

end Sys2Proof.Machine
end

section
/-! Every command is read back from its own word, and from any word that agrees with it on the DATA bits its operand form
reads (30_encoding R70, R72, R73). -/

namespace Sys2Proof

open Machine

/-- A byte placed in DATA is read back whole. -/
@[simp] theorem operandByte_dataOfByte (d : Byte) : operandByte (dataOfByte d) = d :=
  (BitVec.extractLsb'_setWidth_of_le (by decide)).trans BitVec.extractLsb'_eq_self

/-- The byte form and the index form read the same bits. -/
@[simp] theorem operandIndex_eq_operandByte (data : U64) : operandIndex data = operandByte data := rfl

theorem operandByte_toNat (data : U64) : (operandByte data).toNat = data.toNat % 256 := by
  simp [operandByte]

/-- A command is its row of the opcode map with the operand that its DATA holds (R72, R74, R78). -/
theorem toInstr_opcode_data (i : Instr) : i.opcode.toInstr i.data = i := by
  cases i <;> simp [Instr.opcode, Instr.data, Opcode.toInstr, operandU64]

/-- Settles O2: the word carries the row's code, which no other row has, and the operand. -/
theorem decodeInvertsEncode : Obligations.DecodeInvertsEncode := by
  intro i
  rw [encode, decode_append, toInstr_opcode_data]

/-- Settles O1: each command's written-out word is its own encoding, and no row of the map has the code 0x03. -/
theorem specWordsDecode : Obligations.SpecWordsDecode :=
  ⟨decodeInvertsEncode .nop, decodeInvertsEncode .srst, decodeInvertsEncode (.regRd 6),
    decodeInvertsEncode (.encLoad 300), decodeInvertsEncode .encNext, decodeInvertsEncode .decClr,
    decodeInvertsEncode (.decByte 0xAC), decodeInvertsEncode .decEnd, decodeInvertsEncode .crcClr,
    decodeInvertsEncode (.crcByte 1), decodeInvertsEncode (.txStart 256), decodeInvertsEncode (.txByte 0x31),
    decodeInvertsEncode .txEnd, decodeInvertsEncode .txAbort, decodeInvertsEncode (.rxByte 0x76),
    decodeInvertsEncode .rxEos, decodeInvertsEncode (.rxRdbuf 255), by decide⟩

/-- DATA with the bits that an operand form does not read made 0 (R72, R73). -/
def OperandForm.mask : OperandForm → U64 → U64
  | .none, _ => 0
  | .byte, data | .index, data => dataOfByte (operandByte data)
  | .u64, data => data

theorem dataOfByte_operandByte_congr {d d' : U64} (h : d.toNat % 256 = d'.toNat % 256) :
    dataOfByte (operandByte d) = dataOfByte (operandByte d') :=
  congrArg dataOfByte (BitVec.eq_of_toNat_eq (by simpa only [operandByte_toNat] using h))

/-- A row's command depends only on the DATA bits that its form reads. -/
theorem toInstr_mask (o : Opcode) (data : U64) : o.toInstr (o.form.mask data) = o.toInstr data := by
  cases o <;> simp [Opcode.toInstr, Opcode.form, OperandForm.mask]

/-- Words of one row whose DATA agree on the bits its form reads decode alike. -/
theorem decode_append_congr {o : Opcode} {d d' : U64} (h : o.form.mask d = o.form.mask d') :
    decode (o.code ++ d) = decode (o.code ++ d') := by
  rw [decode_append, decode_append, ← toInstr_mask o d, h, toInstr_mask]

end Sys2Proof
end

section
/-! The assembler's lines: when one assembles and the word it gives (30_encoding R78), and the DATA bits no form reads
(R73). -/

namespace Sys2Proof.Machine

/-- A line assembles exactly when its operand fits its form, and then to the operand, if any, in DATA. -/
theorem assembleLine_eq_ok {l : AsmLine} {w : CmdWord} :
    assembleLine l = .ok w ↔
      l.op.form.admits l.operand = true ∧ w = l.op.code ++ BitVec.ofNat 64 (l.operand.getD 0) := by
  unfold assembleLine OperandForm.admits
  cases l.op.form.limit with
  | none => cases l.operand <;> simp [eq_comm]
  | some m =>
    cases l.operand with
    | none => simp
    | some v => by_cases hv : v ≤ m <;> simp [hv, eq_comm]

/-- An operand that a form admits is at most the form's limit; where there is none, the operand counts as 0. -/
theorem getD_le_limit_of_admits {f : OperandForm} {x : Option Nat} (h : f.admits x = true) :
    x.getD 0 ≤ f.limit.getD 0 := by
  unfold OperandForm.admits at h
  split at h
  · exact Nat.zero_le _
  · next m v hm => simpa [hm] using h
  · contradiction

theorem limit_getD_lt (f : OperandForm) : f.limit.getD 0 < 2 ^ 64 := by
  cases f <;> decide

/-- The two fields of an assembled word. -/
theorem fields_of_assembleLine {l : AsmLine} {w : CmdWord} (h : assembleLine l = .ok w) :
    opField w = l.op.code ∧ (dataField w).toNat = l.operand.getD 0 := by
  obtain ⟨hfit, rfl⟩ := assembleLine_eq_ok.1 h
  have hlt := Nat.lt_of_le_of_lt (getD_le_limit_of_admits hfit) (limit_getD_lt _)
  obtain ⟨hop, hdata⟩ := Laws.EncodeFields.fields_append l.op.code (BitVec.ofNat 64 (l.operand.getD 0))
  exact ⟨hop, by rw [hdata, BitVec.toNat_ofNat, Nat.mod_eq_of_lt hlt]⟩

/-- Settles O5: the form's limit decides, and the word has the row's code and the operand in its fields. -/
theorem assemblerLinesEncodeOrAreRefused : Obligations.AssemblerLinesEncodeOrAreRefused := by
  intro o x
  refine ⟨?_, fun w h => fields_of_assembleLine h⟩
  simp only [assembleLine_eq_ok, exists_and_left, exists_eq, and_true]
  cases o.form <;> cases x <;> simp [OperandForm.admits, OperandForm.limit]

/-- Settles O3: words alike in the bits their form reads decode alike; an assembled word holds in DATA no more than the
operand its form admits. -/
theorem unreadDataBitsAreIgnored : Obligations.UnreadDataBitsAreIgnored := by
  refine ⟨fun o d d' hread s => ?_, fun l w h => ?_⟩
  · have hmask : o.form.mask d = o.form.mask d' := by
      revert hread
      cases o.form with
      | none => exact fun _ => rfl
      | byte => exact dataOfByte_operandByte_congr
      | index => exact dataOfByte_operandByte_congr
      | u64 => exact id
    rw [runWord, decode_append_congr hmask, runWord]
  · have hle : (dataField w).toNat ≤ l.op.form.limit.getD 0 :=
      (fields_of_assembleLine h).2.trans_le (getD_le_limit_of_admits (assembleLine_eq_ok.1 h).1)
    revert hle
    cases l.op.form with
    | none => exact fun hle => BitVec.eq_of_toNat_eq (Nat.le_zero.1 hle)
    | byte => exact Nat.lt_succ_of_le
    | index => exact Nat.lt_succ_of_le
    | u64 => exact fun _ => trivial

end Sys2Proof.Machine
end

section
/-! The opcodes that no row of the opcode map has (30_encoding R75). -/

namespace Sys2Proof.Machine

/-- R75's ranges of OP values. -/
def UnassignedOp (op : Nat) : Prop :=
  (0x03 ≤ op ∧ op ≤ 0x0F) ∨ (0x12 ≤ op ∧ op ≤ 0x17) ∨ (0x1B ≤ op ∧ op ≤ 0x1F) ∨ (0x22 ≤ op ∧ op ≤ 0x2F) ∨
    (0x34 ≤ op ∧ op ≤ 0x37) ∨ 0x3B ≤ op

/-- The ranges are the gaps between the codes of the 17 rows. -/
theorem ofCode_eq_none_iff_unassignedOp (op : Byte) : Opcode.ofCode op = none ↔ UnassignedOp op.toNat := by
  have hlt := op.isLt
  simp only [Opcode.ofCode, List.find?_eq_none, Opcode.all, List.forall_mem_cons, List.not_mem_nil, decide_eq_true_eq,
    Opcode.code, ← BitVec.toNat_inj, BitVec.toNat_ofNat, UnassignedOp, Nat.reducePow, Nat.zero_mod, Nat.one_mod,
    Nat.reduceMod, IsEmpty.forall_iff, implies_true, and_true]
  omega

theorem decode_of_ofCode_none {w : CmdWord} (h : Opcode.ofCode (opField w) = none) :
    decode w = .illegal (opField w) := by
  simp [decode, h]

theorem opcode_toInstr (o : Opcode) (data : U64) : (o.toInstr data).opcode = o := by
  cases o <;> rfl

theorem decode_of_ofCode_some {w : CmdWord} {o : Opcode} (h : Opcode.ofCode (opField w) = some o) :
    ∃ i, decode w = .command i ∧ i.opcode.code = opField w :=
  ⟨o.toInstr (dataField w), by simp [decode, h], by rw [opcode_toInstr, Opcode.ofCode_eq_some h]⟩

/-- Of the 256 OP values, all but the 17 codes. -/
theorem length_illegal_ops :
    ((List.range 256).filter fun n => decide (Opcode.ofCode (BitVec.ofNat 8 n) = none)).length = 239 := by
  decide +kernel

/-- Settles O4: the ranges are where the opcode map's lookup fails. -/
theorem illegalOpcodesAnswerAndWriteNothing : Obligations.IllegalOpcodesAnswerAndWriteNothing := by
  refine ⟨fun w => ?_, length_illegal_ops⟩
  have hiff := ofCode_eq_none_iff_unassignedOp (opField w)
  refine ⟨fun hop => ?_, fun hop => ?_⟩
  · have hw := decode_of_ofCode_none (hiff.2 hop)
    exact ⟨hw, runWord_of_illegal hw⟩
  · obtain ⟨o, ho⟩ := Option.ne_none_iff_exists'.1 (mt hiff.1 hop)
    exact decode_of_ofCode_some ho

end Sys2Proof.Machine
end

section
/-! The pseudo-instructions (30_encoding R79). -/

namespace Sys2Proof.Machine

theorem expandPseudo_of_wellFormed {p : Pseudo} (h : p.wellFormed = true) : expandPseudo p = .ok (expansion p) :=
  if_pos h

theorem expandPseudo_refused {p : Pseudo} (h : ¬ p.wellFormed = true) : ∃ e, expandPseudo p = .error e :=
  ⟨_, if_neg h⟩

theorem all_le_255_iff (bs : List Nat) : (bs.all (decide <| · ≤ 255)) = true ↔ ∀ b ∈ bs, b ≤ 255 := by
  simp

/-- A FRAME is checked for its length too. -/
theorem wellFormed_frame_iff (bs : List Nat) :
    (Pseudo.frame bs).wellFormed = true ↔ bs.length ≤ 255 ∧ ∀ b ∈ bs, b ≤ 255 := by
  simp only [Pseudo.wellFormed, Bool.and_eq_true, decide_eq_true_eq, all_le_255_iff]
  rfl

theorem wellFormed_enc_iff (v : Nat) : (Pseudo.enc v).wellFormed = true ↔ v ≤ 2 ^ 64 - 1 := decide_eq_true_iff

/-- Settles O6: a pseudo-instruction expands when it is well-formed and is refused when it is not; TX_START's form admits
256, and the idle block refuses it. -/
theorem pseudoInstructionsExpandExactly : Obligations.PseudoInstructionsExpandExactly := by
  refine ⟨fun bs hbs => ?_, fun bs hbs => ?_, fun v => ⟨fun hv => ?_, fun hv => ?_⟩, ?_⟩
  · have hall := (all_le_255_iff bs).2 hbs
    exact ⟨expandPseudo_of_wellFormed hall, expandPseudo_of_wellFormed hall, expandPseudo_of_wellFormed hall,
      fun hlen => expandPseudo_of_wellFormed ((wellFormed_frame_iff bs).2 ⟨hlen, hbs⟩),
      fun hlen => expandPseudo_refused fun h => Nat.not_le.2 hlen ((wellFormed_frame_iff bs).1 h).1⟩
  · have hbig : ¬ ∀ b ∈ bs, b ≤ 255 := by simpa using hbs
    have hall := mt (all_le_255_iff bs).1 hbig
    exact ⟨expandPseudo_refused hall, expandPseudo_refused hall, expandPseudo_refused hall,
      expandPseudo_refused fun h => hbig ((wellFormed_frame_iff bs).1 h).2⟩
  · exact expandPseudo_of_wellFormed ((wellFormed_enc_iff v).2 hv)
  · exact expandPseudo_refused fun h => Nat.not_le.2 hv ((wellFormed_enc_iff v).1 h)
  · refine ⟨encode (.txStart 256), assembleLine_eq_ok.2 ⟨by decide, rfl⟩, fun s hidle => ?_⟩
    rw [runWord_of_command (decodeInvertsEncode _)]
    exact exec_txStart_tooLarge rfl hidle (by decide)

end Sys2Proof.Machine
end

section
/-! The response as one word (30_encoding R71). -/

namespace Sys2Proof.Machine

theorem extractLsb'_append_add {v w : Nat} (x : BitVec v) (y : BitVec w) (start len : Nat) :
    (x ++ y).extractLsb' (w + start) len = x.extractLsb' start len := by
  rw [BitVec.extractLsb'_append_eq_of_le (Nat.le_add_right w start), Nat.add_sub_cancel_left]

/-- Settles O55: below each field lie the fields packed after it, in their widths: 8 for count, 64 for value, 8 for byte and
1 for bvalid. -/
theorem packedResponseHasItsFields : Obligations.PackedResponseHasItsFields := by
  intro r
  have skipCount := extractLsb'_append_add (r.status.code ++ BitVec.ofBool r.bvalid ++ r.byte ++ r.value) r.count
  have skipValue := extractLsb'_append_add (r.status.code ++ BitVec.ofBool r.bvalid ++ r.byte) r.value
  have skipByte := extractLsb'_append_add (r.status.code ++ BitVec.ofBool r.bvalid) r.byte
  refine ⟨?_, ?_, ?_, ?_, ?_⟩
  · exact (skipCount 73 4).trans ((skipValue 9 4).trans ((skipByte 1 4).trans BitVec.extractLsb'_append_eq_left))
  · exact (skipCount 72 1).trans ((skipValue 8 1).trans ((skipByte 0 1).trans BitVec.extractLsb'_append_eq_right))
  · exact (skipCount 64 8).trans ((skipValue 0 8).trans BitVec.extractLsb'_append_eq_right)
  · exact (skipCount 0 64).trans BitVec.extractLsb'_append_eq_right
  · exact BitVec.extractLsb'_append_eq_right

end Sys2Proof.Machine
end

section
/-! The bytes of a varuint by number (00_scope glossary; 40_varuint R100, R104, R105): bit 7 is 128, the group the rest. -/

namespace Sys2Proof.Machine

theorem continues_iff (b : Byte) : continues b = true ↔ 128 ≤ b.toNat := by
  have h : continues b = b.msb := (BitVec.msb_eq_getLsbD_last b).symm
  rw [h, BitVec.msb_eq_decide, decide_eq_true_iff]

theorem not_continues_iff (b : Byte) : continues b = false ↔ b.toNat < 128 := by
  rw [← Bool.not_eq_true, continues_iff, Nat.not_le]

@[simp] theorem group64_toNat (b : Byte) : (group64 b).toNat = b.toNat % 128 := by
  simp [group64]
  omega

@[simp] theorem lowGroup_toNat (v : U64) : (lowGroup v).toNat = v.toNat % 128 := by
  simp [lowGroup]
  omega

theorem continued_lowGroup_toNat (v : U64) : (0x80#8 ||| lowGroup v).toNat = 128 + v.toNat % 128 := by
  rw [BitVec.toNat_or, lowGroup_toNat]
  exact (Nat.two_pow_add_eq_or_of_lt (i := 7) (Nat.mod_lt _ (by decide)) 1).symm

/-- The legal tenth bytes are 0x00 and 0x01 (R104, R105). -/
theorem overflowsAt_iff (k : Nat) (b : Byte) : overflowsAt k b = true ↔ k = 9 ∧ 2 ≤ b.toNat := by
  have hb := b.isLt
  have hmid : b.extractLsb' 1 6 ≠ 0 ↔ b.toNat / 2 % 64 ≠ 0 := by
    rw [Ne, ← BitVec.toNat_inj, BitVec.extractLsb'_toNat, Nat.shiftRight_eq_div_pow]
    exact Iff.rfl
  simp only [overflowsAt, Bool.and_eq_true, Bool.or_eq_true, decide_eq_true_iff, continues_iff, hmid]
  omega

theorem shift_toNat (v : U64) : (v >>> 7).toNat = v.toNat / 128 := by
  simp [Nat.shiftRight_eq_div_pow]

theorem shift_eq_zero_iff (v : U64) : v >>> 7 = 0 ↔ v.toNat < 128 := by
  rw [← BitVec.toNat_inj, shift_toNat]
  exact Nat.div_eq_zero_iff_lt (by decide)

/-- A value is its low group and, 7 bits up, the rest. -/
theorem group64_or_shift {b : Byte} {v : U64} (h : b.toNat % 128 = v.toNat % 128) :
    group64 b ||| (v >>> 7) <<< 7 = v := by
  apply BitVec.eq_of_toNat_eq
  have hv := v.isLt
  have hlow : v.toNat % 128 < 2 ^ 7 := Nat.mod_lt _ (by decide)
  have hhigh : v.toNat / 128 * 2 ^ 7 % 2 ^ 64 = 2 ^ 7 * (v.toNat / 128) := by omega
  rw [BitVec.toNat_or, group64_toNat, h, BitVec.toNat_shiftLeft, shift_toNat, Nat.shiftLeft_eq, hhigh, Nat.or_comm,
    ← Nat.two_pow_add_eq_or_of_lt hlow]
  exact Nat.div_add_mod _ _

end Sys2Proof.Machine
end

section
/-! The encoding of a value (40_varuint R100, R102), by induction over its groups. -/

namespace Sys2Proof.Machine

/-- What holds of a value of one group, and of a value whose rest it holds of, holds of every value (the loop of R100). -/
theorem group_induction {P : U64 → Prop} (last : ∀ v : U64, v.toNat < 128 → P v)
    (more : ∀ v : U64, 128 ≤ v.toNat → P (v >>> 7) → P v) (v : U64) : P v := by
  induction hn : v.toNat using Nat.strong_induction_on generalizing v with
  | _ n ih =>
    subst hn
    rcases Nat.lt_or_ge v.toNat 128 with hv | hv
    · exact last v hv
    · exact more v hv (ih _ (by rw [shift_toNat]; omega) _ rfl)

theorem varuintEncode_last {v : U64} (h : v.toNat < 128) : varuintEncode v = [lowGroup v] := by
  rw [varuintEncode_eq, if_pos ((shift_eq_zero_iff v).2 h)]

theorem varuintEncode_more {v : U64} (h : 128 ≤ v.toNat) :
    varuintEncode v = (0x80#8 ||| lowGroup v) :: varuintEncode (v >>> 7) := by
  rw [varuintEncode_eq, if_neg (mt (shift_eq_zero_iff v).1 (Nat.not_lt.2 h))]

theorem varuintLen_last {v : U64} (h : v.toNat < 128) : varuintLen v = 1 := by
  rw [varuintLen, varuintEncode_last h, List.length_singleton]

theorem varuintLen_more {v : U64} (h : 128 ≤ v.toNat) : varuintLen v = varuintLen (v >>> 7) + 1 := by
  rw [varuintLen, varuintEncode_more h, List.length_cons, varuintLen]

theorem varuintLen_pos (v : U64) : 0 < varuintLen v := by
  induction v using group_induction with
  | last v hv => exact varuintLen_last hv ▸ Nat.one_pos
  | more v hv _ => exact varuintLen_more hv ▸ Nat.succ_pos _

/-- The values that k bytes can hold, k at least 1, are those below 2^(7k). -/
theorem varuintLen_le_iff (v : U64) (k : Nat) : varuintLen v ≤ k + 1 ↔ v.toNat < 2 ^ (7 * (k + 1)) := by
  induction v using group_induction generalizing k with
  | last v hv =>
    have hpow : 2 ^ 7 ≤ 2 ^ (7 * (k + 1)) := Nat.pow_le_pow_right (by decide) (by omega)
    rw [varuintLen_last hv]
    omega
  | more v hv ih =>
    rw [varuintLen_more hv, Nat.add_le_add_iff_right]
    cases k with
    | zero =>
      have hlen := varuintLen_pos (v >>> 7)
      omega
    | succ k =>
      rw [ih, shift_toNat, Nat.div_lt_iff_lt_mul (by decide), show 7 * (k + 1 + 1) = 7 * (k + 1) + 7 from rfl, Nat.pow_add]

theorem varuintLen_le_ten (v : U64) : varuintLen v ≤ 10 :=
  (varuintLen_le_iff v 9).2 (v.isLt.trans (by decide))

theorem varuintLen_eq_of_bounds {v : U64} {k : Nat} (hlow : 2 ^ (7 * k) ≤ v.toNat) (hhigh : v.toNat < 2 ^ (7 * (k + 1))) :
    varuintLen v = k + 1 := by
  refine Nat.le_antisymm ((varuintLen_le_iff v k).2 hhigh) ?_
  cases k with
  | zero => exact varuintLen_pos v
  | succ k => exact Nat.lt_of_not_le fun hle => Nat.not_lt.2 hlow ((varuintLen_le_iff v k).1 hle)

/-- Settles O39: a length of k + 1 bytes is decided by the powers 2^(7k) and 2^(7(k+1)), and log2 lies between two such. -/
theorem varuintLengthClosedForm : Obligations.VaruintLengthClosedForm := by
  intro v
  refine ⟨rfl, fun h0 => varuintLen_last (by simp [h0]), fun hne => ?_, fun k h1 _ hlow hhigh => ?_, fun hbig => ?_⟩
  · have hv : v.toNat ≠ 0 := fun h => hne (BitVec.eq_of_toNat_eq h)
    rw [Nat.add_div_right _ (by decide : 0 < 7)]
    exact varuintLen_eq_of_bounds
      ((Nat.pow_le_pow_right (by decide) (by omega)).trans (Nat.log2_self_le hv))
      (Nat.lt_log2_self.trans_le (Nat.pow_le_pow_right (by decide) (by omega)))
  · obtain ⟨k, rfl⟩ := Nat.exists_eq_add_of_le' h1
    exact varuintLen_eq_of_bounds hlow hhigh
  · exact varuintLen_eq_of_bounds hbig (v.isLt.trans (by decide))

/-- An encoding is continuation bytes and then what the value has above them, below 128. -/
theorem varuintEncode_eq_append (v : U64) : ∃ (g : List Byte) (b : Byte), varuintEncode v = g ++ [b] ∧
    (∀ c ∈ g, continues c = true) ∧ continues b = false ∧ b.toNat = v.toNat / 2 ^ (7 * g.length) := by
  induction v using group_induction with
  | last v hv =>
    have hb : (lowGroup v).toNat = v.toNat := (lowGroup_toNat v).trans (Nat.mod_eq_of_lt hv)
    exact ⟨[], lowGroup v, varuintEncode_last hv, by simp, (not_continues_iff _).2 (hb ▸ hv), by simp [hb]⟩
  | more v hv ih =>
    obtain ⟨g, b, henc, hg, hb, hval⟩ := ih
    refine ⟨(0x80#8 ||| lowGroup v) :: g, b, by rw [varuintEncode_more hv, henc, List.cons_append], ?_, hb, ?_⟩
    · exact List.forall_mem_cons.2 ⟨(continues_iff _).2 (continued_lowGroup_toNat v ▸ Nat.le_add_right _ _), hg⟩
    · rw [hval, shift_toNat, Nat.div_div_eq_div_mul, List.length_cons, Nat.mul_add, Nat.add_comm, Nat.pow_add]

end Sys2Proof.Machine
end

section
/-! The value and the length a string decodes to (40_varuint R101, R103 to R107): the decoder reads a run of continuation
bytes, and then ends a value, fails on a tenth byte, or runs out. -/

namespace Sys2Proof.Machine

/-- The value of a string of groups, the lowest first (R100, R101). -/
def groupsValue : List Byte → U64
  | [] => 0
  | b :: s => group64 b ||| groupsValue s <<< 7

theorem groupsValue_append_singleton (g : List Byte) (b : Byte) :
    groupsValue (g ++ [b]) = groupsValue g ||| group64 b <<< (7 * g.length) := by
  induction g with
  | nil => simp [groupsValue]
  | cons c g ih =>
    simp only [List.cons_append, groupsValue, ih, BitVec.shiftLeft_or_distrib, ← BitVec.shiftLeft_add, List.length_cons,
      Nat.mul_add, BitVec.or_assoc]

/-- That many groups hold that many bits. -/
theorem groupsValue_lt (g : List Byte) : (groupsValue g).toNat < 2 ^ (7 * g.length) := by
  induction g with
  | nil => decide
  | cons b g ih =>
    rw [groupsValue, BitVec.toNat_or, BitVec.toNat_shiftLeft, Nat.shiftLeft_eq]
    refine Nat.or_lt_two_pow ((group64_toNat_lt b).trans_le (Nat.pow_le_pow_right (by decide) (by simp))) ?_
    refine (Nat.mod_le _ _).trans_lt ?_
    rw [List.length_cons, Nat.mul_add, Nat.pow_add]
    exact Nat.mul_lt_mul_of_pos_right ih (by decide)

theorem groupsValue_replicate (k : Nat) : groupsValue (List.replicate k 0x80) = 0 := by
  induction k with
  | zero => rfl
  | succ k ih =>
    rw [List.replicate_succ, groupsValue, ih]
    decide

@[simp] theorem groupsValue_varuintEncode (v : U64) : groupsValue (varuintEncode v) = v := by
  induction v using group_induction with
  | last v hv =>
    rw [varuintEncode_last hv]
    simpa [groupsValue, (shift_eq_zero_iff v).2 hv] using group64_or_shift (b := lowGroup v) (v := v) (by simp)
  | more v hv ih =>
    rw [varuintEncode_more hv, groupsValue, ih]
    exact group64_or_shift (by rw [continued_lowGroup_toNat]; omega)

/-- Up to nine continuation bytes are accumulated and decoding goes on after them. -/
theorem varuintDecode_append {g : List Byte} (hg : ∀ b ∈ g, continues b = true) (hlen : g.length ≤ 9) (s : List Byte) :
    varuintDecode (g ++ s) = varuintDecodeFrom g.length (groupsValue g) s := by
  induction g using List.reverseRecOn generalizing s with
  | nil => rfl
  | append_singleton g b ih =>
    rw [List.length_append, List.length_singleton] at hlen
    have hb : continues b = true := hg b (by simp)
    have hno : ¬ overflowsAt g.length b = true := fun h => by
      have := ((overflowsAt_iff _ _).1 h).1
      omega
    rw [List.append_assoc, ih (fun c hc => hg c (by simp [hc])) (by omega), List.singleton_append, varuintDecodeFrom,
      if_neg hno, if_pos hb, groupsValue_append_singleton, List.length_append, List.length_singleton]

/-- How decoding a string goes: the three ends of the loop of R101. -/
inductive VaruintScan : List Byte → Except CodecError (U64 × Nat) → Prop
  | ended (g : List Byte) (b : Byte) (t : List Byte) (hg : ∀ c ∈ g, continues c = true) (hlen : g.length ≤ 9)
      (hno : ¬ overflowsAt g.length b = true) (hb : continues b = false) :
      VaruintScan (g ++ b :: t) (.ok (groupsValue (g ++ [b]), g.length + 1))
  | overflow (g : List Byte) (b : Byte) (t : List Byte) (hg : ∀ c ∈ g, continues c = true) (hlen : g.length = 9)
      (ho : overflowsAt g.length b = true) : VaruintScan (g ++ b :: t) (.error .malformedVaruint)
  | short (g : List Byte) (hg : ∀ c ∈ g, continues c = true) (hlen : g.length ≤ 9) :
      VaruintScan g (.error .malformedVaruint)

theorem VaruintScan.eq {s : List Byte} {r : Except CodecError (U64 × Nat)} (h : VaruintScan s r) :
    varuintDecode s = r := by
  cases h with
  | ended g b t hg hlen hno hb =>
    rw [varuintDecode_append hg hlen, varuintDecodeFrom, if_neg hno, if_neg (Bool.eq_false_iff.1 hb),
      groupsValue_append_singleton]
  | overflow g b t hg hlen ho => rw [varuintDecode_append hg hlen.le, varuintDecodeFrom, if_pos ho]
  | short g hg hlen => simpa [varuintDecodeFrom] using varuintDecode_append hg hlen []

/-- A string's first n bytes all continue, or one of them does not, or it has fewer. -/
theorem exists_continuing_split (s : List Byte) (n : Nat) : ∃ g t, s = g ++ t ∧ (∀ c ∈ g, continues c = true) ∧
    g.length ≤ n ∧ ∀ b ∈ t.head?, g.length = n ∨ continues b = false := by
  induction n generalizing s with
  | zero => exact ⟨[], s, rfl, by simp, Nat.le_refl 0, fun _ _ => .inl rfl⟩
  | succ n ih =>
    cases s with
    | nil => exact ⟨[], [], rfl, by simp, Nat.zero_le _, by simp⟩
    | cons b s =>
      by_cases hb : continues b = true
      · obtain ⟨g, t, rfl, hg, hlen, ht⟩ := ih s
        exact ⟨b :: g, t, rfl, List.forall_mem_cons.2 ⟨hb, hg⟩, by simpa using hlen, by simpa using ht⟩
      · exact ⟨[], b :: s, rfl, by simp, Nat.zero_le _, by simpa using hb⟩

theorem varuintDecode_scan (s : List Byte) : VaruintScan s (varuintDecode s) := by
  suffices h : ∃ r, VaruintScan s r by
    obtain ⟨r, h⟩ := h
    exact h.eq ▸ h
  obtain ⟨g, t, rfl, hg, hlen, ht⟩ := exists_continuing_split s 9
  cases t with
  | nil => exact ⟨_, by simpa using .short g hg hlen⟩
  | cons b t =>
    by_cases ho : overflowsAt g.length b = true
    · exact ⟨_, .overflow g b t hg ((overflowsAt_iff _ _).1 ho).1 ho⟩
    · refine ⟨_, .ended g b t hg hlen ho ?_⟩
      refine (ht b rfl).elim (fun h9 => ?_) id
      rw [overflowsAt_iff] at ho
      rw [not_continues_iff]
      omega

/-- Settles O38: the encoding is scanned to its last byte, which is at most 1 if it is the tenth. -/
theorem varuintRoundTrip : Obligations.VaruintRoundTrip := by
  intro v t
  obtain ⟨g, b, henc, hg, hb, hval⟩ := varuintEncode_eq_append v
  have hlen : varuintLen v = g.length + 1 := by simp [varuintLen, henc]
  have hten := varuintLen_le_ten v
  have hno : ¬ overflowsAt g.length b = true := by
    rw [overflowsAt_iff]
    rintro ⟨h9, h2⟩
    rw [hval, h9] at h2
    have := v.isLt
    omega
  have hdec := (VaruintScan.ended g b t hg (by omega) hno hb).eq
  rwa [← henc, groupsValue_varuintEncode, ← hlen, List.append_cons, ← henc] at hdec

/-- Settles O40: a last byte 0 holds no bit of the value, so a shorter length would do; and n bytes hold 7n bits. -/
theorem varuintEncodingIsMinimal : Obligations.VaruintEncodingIsMinimal := by
  refine ⟨fun v hlast => ?_, fun s v n h => ?_⟩
  · obtain ⟨g, b, henc, -, -, hval⟩ := varuintEncode_eq_append v
    have hlen : varuintLen v = g.length + 1 := by simp [varuintLen, henc]
    obtain rfl : b = 0 := by simpa [henc] using hlast
    have hlt : v.toNat < 2 ^ (7 * g.length) := Nat.lt_of_div_eq_zero (Nat.two_pow_pos _) hval.symm
    cases g with
    | nil => exact henc
    | cons c g =>
      have := (varuintLen_le_iff v g.length).2 hlt
      simp at hlen
      omega
  · have hscan := varuintDecode_scan s
    rw [h] at hscan
    cases hscan with
    | ended g b t =>
      have := (varuintLen_le_iff _ g.length).2 (by simpa using groupsValue_lt (g ++ [b]))
      simp
      omega

theorem varuintDecode_ended {g : List Byte} (hg : ∀ c ∈ g, 128 ≤ c.toNat) {b : Byte} (hb : b.toNat < 128)
    (hlen : g.length ≤ 8 ∨ g.length = 9 ∧ b.toNat ≤ 1) (t : List Byte) :
    varuintDecode (g ++ b :: t) = .ok (groupsValue (g ++ [b]), g.length + 1) := by
  have hno : ¬ overflowsAt g.length b = true := by
    rw [overflowsAt_iff]
    omega
  exact (VaruintScan.ended g b t (fun c hc => (continues_iff c).2 (hg c hc)) (by omega) hno ((not_continues_iff b).2 hb)).eq

theorem varuintDecode_overflow {g : List Byte} (hg : ∀ c ∈ g, 128 ≤ c.toNat) (hlen : g.length = 9) {b : Byte}
    (hb : 2 ≤ b.toNat) (t : List Byte) : varuintDecode (g ++ b :: t) = .error .malformedVaruint :=
  (VaruintScan.overflow g b t (fun c hc => (continues_iff c).2 (hg c hc)) hlen ((overflowsAt_iff _ _).2 ⟨hlen, hb⟩)).eq

/-- No string of continuation bytes alone ends a value (R104). -/
theorem varuintDecode_continuing {g : List Byte} (hg : ∀ c ∈ g, 128 ≤ c.toNat) :
    varuintDecode g = .error .malformedVaruint := by
  have hscan := varuintDecode_scan g
  generalize hr : varuintDecode g = r at hscan
  cases hscan with
  | ended g b t _ _ _ hb =>
    have := hg b (by simp)
    rw [not_continues_iff] at hb
    omega
  | overflow => rfl
  | short => rfl

/-- Settles O41: a tenth byte ends the value or overflows, by its number; a terminator before it always ends the value; and
0x80 adds an empty group. -/
theorem varuintTenthByteLimits : Obligations.VaruintTenthByteLimits := by
  have h80 (k : Nat) : ∀ c ∈ List.replicate k (0x80 : Byte), 128 ≤ c.toNat := fun c hc => by
    obtain rfl := List.eq_of_mem_replicate hc
    decide
  refine ⟨fun g hlen hg b t => ⟨fun hb => ?_, fun hb => varuintDecode_overflow hg hlen hb t⟩,
    fun g hg => varuintDecode_continuing hg, fun g hlen hg b t hb => ⟨_, varuintDecode_ended hg hb (.inl hlen) t⟩,
    fun k t hk => ?_, fun t => ?_⟩
  · have hle : b.toNat ≤ 1 := by rcases hb with rfl | rfl <;> decide
    exact ⟨_, hlen ▸ varuintDecode_ended hg (by omega) (.inr ⟨hlen, hle⟩) t⟩
  · have hdec := varuintDecode_ended (b := 0) (h80 k) (by decide) (by simp; omega) t
    rw [groupsValue_append_singleton, groupsValue_replicate, List.length_replicate, show group64 0 = 0 by decide] at hdec
    simpa using hdec
  · exact varuintDecode_overflow (h80 9) rfl (by decide) t

end Sys2Proof.Machine
end

section
/-! Commands one after another (00_scope R8, R60), and the responses they leave with the host. -/

namespace Sys2Proof.Machine

theorem execAll_cons {i : Instr} {s t : State} (h : exec i s = .next t) (is : List Instr) :
    execAll (i :: is) s = execAll is t := by
  rw [execAll, h]

theorem execAll_append {is : List Instr} {s t : State} (h : execAll is s = .next t) (js : List Instr) :
    execAll (is ++ js) s = execAll js t := by
  induction is generalizing s with
  | nil =>
    cases h
    rfl
  | cons i is ih =>
    rw [execAll] at h
    split at h
    · next s' hs' => exact (execAll_cons hs' _).trans (ih h)
    · nomatch h
    · nomatch h

/-- The host has received these responses, one per command, in order. -/
def State.pushRsps (s : State) (rs : List Response) : State := { s with hostRsp := s.hostRsp ++ rs }

@[simp] theorem State.pushRsps_nil (s : State) : s.pushRsps [] = s := by
  simp [State.pushRsps]

@[simp] theorem State.pushRsps_pushRsp (s : State) (rs : List Response) (r : Response) :
    (s.pushRsps rs).pushRsp r = s.pushRsps (rs ++ [r]) := by
  simp [State.pushRsps, State.pushRsp]

@[simp] theorem State.pushRsp_pushRsps (s : State) (rs : List Response) (r : Response) :
    (s.pushRsp r).pushRsps rs = s.pushRsps (r :: rs) := by
  simp [State.pushRsps, State.pushRsp]

@[simp] theorem State.pushRsp_setEnc (s : State) (r : Response) (u : EncUnit) :
    (s.pushRsp r).setEnc u = (s.setEnc u).pushRsp r := rfl

@[simp] theorem State.setEnc_setEnc (s : State) (u v : EncUnit) : (s.setEnc u).setEnc v = s.setEnc v := rfl

@[simp] theorem State.pushRsps_setDec (s : State) (rs : List Response) (u : DecUnit) :
    (s.pushRsps rs).setDec u = (s.setDec u).pushRsps rs := rfl

@[simp] theorem State.setDec_setDec (s : State) (u v : DecUnit) : (s.setDec u).setDec v = s.setDec v := rfl

theorem State.setDec_eq_self {s : State} {u : DecUnit} (h : s.dec = u) : s.setDec u = s := by
  subst h
  rfl

end Sys2Proof.Machine
end

section
/-! The encoder's commands (40_varuint R120, R121) emit the encoding (R110 (a)). -/

namespace Sys2Proof.Machine

/-- Settles O22: ENC_LOAD's form reads all of DATA, and its answer has no case. -/
theorem encLoadRestartsTheEncoder : Obligations.EncLoadRestartsTheEncoder :=
  ⟨fun v => decode_append .encLoad v, fun _ _ => rfl⟩

theorem count_setWidth_eq_ofNat {c : BitVec 4} {k : Nat} (h : c.toNat = k) : c.setWidth 8 = BitVec.ofNat 8 k := by
  rw [← h, BitVec.ofNat_toNat]

theorem count_toNat_setWidth (c : BitVec 4) : (c.setWidth 8).toNat = c.toNat :=
  BitVec.toNat_setWidth_of_le (by decide)

/-- Settles O23: ENC_VAL below 128 is the last group, and from 128 on more remains. -/
theorem encNextEmitsTheNextGroup : Obligations.EncNextEmitsTheNextGroup := by
  refine ⟨fun data => decode_append .encNext data, fun s hidle => exec_encNext_idle rfl (by simp [hidle]),
    fun s hactive hcount => ?_⟩
  have hsucc : (s.enc.count + 1).toNat = s.enc.count.toNat + 1 := toNat_succ (by omega)
  rcases Nat.lt_or_ge s.enc.val.toNat 128 with hv | hv
  · refine ⟨_, _, exec_encNext_last rfl hactive ((shift_eq_zero_iff _).2 hv), hsucc, ?_, rfl, rfl, fun h => ?_,
      fun _ => ⟨rfl, ?_, rfl, rfl⟩⟩
    · rw [count_toNat_setWidth, hsucc]
    · omega
    · rw [lowGroup_toNat, Nat.mod_eq_of_lt hv]
  · refine ⟨_, _, exec_encNext_more rfl hactive (mt (shift_eq_zero_iff _).1 (Nat.not_lt.2 hv)), hsucc, ?_, rfl, rfl,
      fun _ => ⟨rfl, continued_lowGroup_toNat _, shift_toNat _, rfl⟩, fun h => ?_⟩
    · rw [count_toNat_setWidth, hsucc]
    · omega

/-- COUNT after one byte and n more. -/
theorem add_one_add_ofNat (c : BitVec 4) (n : Nat) : c + (1 : BitVec 4) + BitVec.ofNat 4 n = c + BitVec.ofNat 4 (n + 1) := by
  rw [BitVec.ofNat_add, BitVec.add_comm (BitVec.ofNat 4 n), BitVec.add_assoc]
  rfl

/-- An active encoder emits the encoding of ENC_VAL, whatever COUNT it starts from, and goes idle on its last byte. -/
theorem execAll_encNext (v : U64) {s : State} {c : BitVec 4} (hs : s.enc = ⟨v, true, c⟩) : ∃ rs : List Response,
    execAll (List.replicate (varuintLen v) .encNext) s =
      .next ((s.setEnc ⟨0, false, c + BitVec.ofNat 4 (varuintLen v)⟩).pushRsps rs) ∧
    emitted rs = varuintEncode v ∧
    rs.map (·.status) = List.replicate (varuintLen v - 1) .ok ++ [.done] := by
  induction v using group_induction generalizing s c with
  | last v hv =>
    rw [varuintLen_last hv, varuintEncode_last hv]
    refine ⟨[_], execAll_cons (exec_encNext_last hs rfl ((shift_eq_zero_iff v).2 hv)) [], rfl, rfl⟩
  | more v hv ih =>
    have hfirst := exec_encNext_more hs rfl (mt (shift_eq_zero_iff v).1 (Nat.not_lt.2 hv))
    obtain ⟨rs, hrun, hemit, hstatus⟩ := ih (s := (s.setEnc ⟨v >>> 7, true, c + 1⟩).pushRsp _) rfl
    rw [← execAll_cons hfirst, ← List.replicate_succ, add_one_add_ofNat, ← varuintLen_more hv, State.pushRsp_setEnc,
      State.setEnc_setEnc, State.pushRsp_pushRsps] at hrun
    refine ⟨_, hrun, ?_, ?_⟩
    · rw [varuintEncode_more hv, ← hemit]
      rfl
    · obtain ⟨n, hn⟩ := Nat.exists_eq_succ_of_ne_zero (varuintLen_pos (v >>> 7)).ne'
      rw [varuintLen_more hv, List.map_cons, hstatus, hn]
      rfl

/-- Settles O43: ENC_LOAD answers OK and starts the encoder with COUNT 0, and the ENC_NEXTs leave it idle. -/
theorem encoderCommandsEmitTheEncoding : Obligations.EncoderCommandsEmitTheEncoding := by
  intro s v
  obtain ⟨rs, hrun, hemit, hstatus⟩ := execAll_encNext v (s := (s.setEnc ⟨v, true, 0⟩).pushRsp { status := .ok }) rfl
  rw [← execAll_cons (i := .encLoad v) rfl, State.pushRsp_setEnc, State.setEnc_setEnc, State.pushRsp_pushRsps] at hrun
  refine ⟨_, rs, hrun, ?_, hemit, hstatus, exec_encNext_idle rfl Bool.false_ne_true⟩
  simp [State.pushRsps, State.setEnc]

end Sys2Proof.Machine
end

section
/-! The decoder's commands (40_varuint R130 to R132) answer as varuint_decode does (R110 (b), R133). -/

namespace Sys2Proof.Machine

/-- Settles O24: neither command reads DATA, and neither answer has a case. -/
theorem decClrAndDecEndClearTheDecoder : Obligations.DecClrAndDecEndClearTheDecoder := by
  refine ⟨fun data => ⟨decode_append .decClr data, decode_append .decEnd data⟩, fun _ => rfl, fun s => ?_⟩
  rw [exec_decEnd rfl, BitVec.ofNat_toNat]
  rfl

theorem group64_eq_ofNat (b : Byte) : group64 b = BitVec.ofNat 64 (b.toNat % 128) := by
  apply BitVec.eq_of_toNat_eq
  rw [group64_toNat, BitVec.toNat_ofNat]
  omega

/-- Settles O25: the tenth byte overflows above 1, and any other byte continues the value or ends it by its bit 7. -/
theorem decByteAddsAGroupOrFails : Obligations.DecByteAddsAGroupOrFails := by
  refine ⟨fun data => decode_append .decByte data, fun d s hk => ?_⟩
  have hcount : s.dec.count + 1 = BitVec.ofNat 4 (s.dec.count.toNat + 1) := by simp [BitVec.ofNat_add]
  have hsucc : (s.dec.count + 1).toNat = s.dec.count.toNat + 1 := toNat_succ (by omega)
  simp only [← group64_eq_ofNat, ← count_setWidth_eq_ofNat hsucc, ← hcount]
  refine ⟨fun h => exec_decByte_overflow rfl ((overflowsAt_iff _ d).2 h), fun h => ?_, fun h => ?_⟩
  · exact exec_decByte_more rfl (by rw [overflowsAt_iff]; omega) ((continues_iff d).2 h.2)
  · exact exec_decByte_last rfl (by rw [overflowsAt_iff]; omega) (by rw [continues_iff]; omega)

/-- The decoder when it has taken these continuation bytes. -/
def decRead (g : List Byte) : DecUnit := ⟨groupsValue g, BitVec.ofNat 4 g.length⟩

theorem decRead_count_toNat {g : List Byte} (hlen : g.length ≤ 9) : (decRead g).count.toNat = g.length :=
  Nat.mod_eq_of_lt (by omega)

theorem decRead_succ_setWidth {g : List Byte} (hlen : g.length ≤ 9) :
    ((decRead g).count + 1).setWidth 8 = BitVec.ofNat 8 (g.length + 1) := by
  have hcount := decRead_count_toNat hlen
  exact count_setWidth_eq_ofNat ((toNat_succ (by omega)).trans (by rw [hcount]))

section
variable {s : State} {g : List Byte} {b : Byte} (hs : s.dec = decRead g)

include hs

theorem exec_decByte_decRead_more (hlen : g.length ≤ 8) (hb : continues b = true) :
    exec (.decByte b) s = .next ((s.setDec (decRead (g ++ [b]))).pushRsp
      { status := .ok, count := BitVec.ofNat 8 (g.length + 1) }) := by
  have hcount := decRead_count_toNat (g := g) (by omega)
  rw [exec_decByte_more hs (by rw [overflowsAt_iff]; omega) hb, decRead_succ_setWidth (by omega), hcount]
  simp only [decRead, groupsValue_append_singleton, List.length_append, List.length_singleton, BitVec.ofNat_add]
  rfl

theorem exec_decByte_decRead_last (hlen : g.length ≤ 9) (hno : ¬ overflowsAt g.length b = true)
    (hb : continues b = false) :
    exec (.decByte b) s = .next ((s.setDec DecUnit.reset).pushRsp
      { status := .done, value := groupsValue (g ++ [b]), count := BitVec.ofNat 8 (g.length + 1) }) := by
  have hcount := decRead_count_toNat hlen
  rw [exec_decByte_last hs (by rwa [hcount]) (Bool.eq_false_iff.1 hb), decRead_succ_setWidth hlen, hcount,
    groupsValue_append_singleton]
  rfl

theorem exec_decByte_decRead_overflow (hlen : g.length ≤ 9) (ho : overflowsAt g.length b = true) :
    exec (.decByte b) s = .next ((s.setDec DecUnit.reset).pushRsp { status := .errMalformedVaruint, count := 10 }) :=
  exec_decByte_overflow hs (by rwa [decRead_count_toNat hlen])

theorem exec_decEnd_decRead (hlen : g.length ≤ 9) :
    exec .decEnd s = .next ((s.setDec DecUnit.reset).pushRsp
      { status := .errMalformedVaruint, count := BitVec.ofNat 8 g.length }) := by
  rw [exec_decEnd hs, count_setWidth_eq_ofNat (decRead_count_toNat hlen)]

end

/-- From a clear decoder, up to nine continuation bytes are answered OK and accumulated. -/
theorem execAll_decByte_continuing {g : List Byte} (hg : ∀ b ∈ g, continues b = true) (hlen : g.length ≤ 9) {s : State}
    (hs : s.dec = ⟨0, 0⟩) : ∃ rs : List Response,
      execAll (g.map .decByte) s = .next ((s.setDec (decRead g)).pushRsps rs) ∧
      rs.map (·.status) = List.replicate g.length .ok := by
  induction g using List.reverseRecOn with
  | nil => exact ⟨[], by rw [State.setDec_eq_self (u := decRead []) hs, State.pushRsps_nil]; rfl, rfl⟩
  | append_singleton g b ih =>
    rw [List.length_append, List.length_singleton] at hlen
    obtain ⟨rs, hrun, hstatus⟩ := ih (fun c hc => hg c (by simp [hc])) (by omega)
    have hlast := exec_decByte_decRead_more (s := (s.setDec (decRead g)).pushRsps rs) rfl (by omega) (hg b (by simp))
    rw [State.pushRsps_setDec, State.setDec_setDec, State.pushRsps_pushRsp] at hlast
    have hboth := (execAll_append hrun [.decByte b]).trans (execAll_cons hlast [])
    rw [List.map_append]
    refine ⟨_, hboth, ?_⟩
    rw [List.map_append, hstatus, List.length_append, List.replicate_add]
    rfl

/-- Those bytes and then a command that clears the decoder: only the responses are left. -/
theorem execAll_decByte_cleared {g : List Byte} (hg : ∀ b ∈ g, continues b = true) (hlen : g.length ≤ 9) {s : State}
    (hs : s.dec = ⟨0, 0⟩) {i : Instr} {r : Response}
    (hi : ∀ t : State, t.dec = decRead g → exec i t = .next ((t.setDec DecUnit.reset).pushRsp r)) :
    ∃ rs : List Response, execAll (g.map .decByte ++ [i]) s = .next { s with hostRsp := s.hostRsp ++ rs ++ [r] } ∧
      rs.map (·.status) = List.replicate g.length .ok := by
  obtain ⟨rs, hrun, hstatus⟩ := execAll_decByte_continuing hg hlen hs
  refine ⟨rs, ?_, hstatus⟩
  rw [execAll_append hrun, execAll_cons (hi _ rfl), State.pushRsps_setDec, State.setDec_setDec,
    State.setDec_eq_self (u := DecUnit.reset) hs]
  rfl

theorem map_take_decByte (g : List Byte) (b : Byte) (t : List Byte) :
    ((g ++ b :: t).take (g.length + 1)).map Instr.decByte = g.map .decByte ++ [.decByte b] := by
  rw [List.take_length_add_append, List.take_succ_cons, List.take_zero, List.map_append, List.map_singleton]

/-- Settles O44: the commands end as the scan of the string does, by a terminator, a bad tenth byte or DEC_END. -/
theorem decoderCommandsAnswerTheDecoding : Obligations.DecoderCommandsAnswerTheDecoding := by
  intro s bs hs
  have hscan := varuintDecode_scan bs
  generalize varuintDecode bs = r at hscan ⊢
  cases hscan with
  | ended g b t hg hlen hno hb =>
    refine ⟨fun v n h => ?_, nofun, nofun⟩
    cases h
    rw [map_take_decByte]
    exact execAll_decByte_cleared hg hlen hs fun u hu => exec_decByte_decRead_last hu hlen hno hb
  | overflow g b t hg hlen ho =>
    refine ⟨nofun, fun _ _ => ?_, fun _ hshort => ?_⟩
    · have hrun := execAll_decByte_cleared hg hlen.le hs fun u hu => exec_decByte_decRead_overflow hu hlen.le ho
      rwa [← map_take_decByte g b t, hlen] at hrun
    · simp at hshort
      omega
  | short g hg hlen =>
    refine ⟨nofun, fun _ hlong => ?_, fun _ _ => ?_⟩
    · omega
    · exact execAll_decByte_cleared hg hlen hs fun u hu => exec_decEnd_decRead hu hlen

/-- A decoder command that leaves the decoder holding something has answered OK. -/
theorem exec_dec_reset_or_ok {i : Instr} (hi : unitOf i = .dec) (s : State) :
    ∃ (u : DecUnit) (r : Response), exec i s = .next ((s.setDec u).pushRsp r) ∧ (u = DecUnit.reset ∨ r.status = .ok) := by
  cases i <;> simp only [unitOf, reduceCtorEq] at hi
  case decClr => exact ⟨_, _, rfl, .inl rfl⟩
  case decEnd => exact ⟨_, _, exec_decEnd rfl, .inl rfl⟩
  case decByte d =>
    by_cases ho : overflowsAt s.dec.count.toNat d = true
    · exact ⟨_, _, exec_decByte_overflow rfl ho, .inl rfl⟩
    · by_cases hc : continues d = true
      · exact ⟨_, _, exec_decByte_more rfl ho hc, .inr rfl⟩
      · exact ⟨_, _, exec_decByte_last rfl ho hc, .inl rfl⟩

/-- A clear decoder takes the encoding of a value with OKs and then a DONE with the value, and is clear again. -/
theorem execAll_decByte_varuintEncode (v : U64) {s : State} (hs : s.dec = ⟨0, 0⟩) : ∃ rs : List Response,
    execAll ((varuintEncode v).map .decByte) s = .next (s.pushRsps rs) ∧
    (∀ r ∈ rs, r.status = .ok ∨ r.status = .done) ∧
    (rs.filter fun r => decide (r.status = .done)).map (·.value) = [v] := by
  have hround := varuintRoundTrip v []
  rw [List.append_nil] at hround
  obtain ⟨hdone, -, -⟩ := decoderCommandsAnswerTheDecoding s (varuintEncode v) hs
  obtain ⟨rs, hrun, hstatus⟩ := hdone v _ hround
  have hok : ∀ r ∈ rs, r.status = .ok := fun r hr => List.eq_of_mem_replicate (hstatus ▸ List.mem_map_of_mem hr)
  have hnone : rs.filter (fun r => decide (r.status = .done)) = [] :=
    List.filter_eq_nil_iff.2 fun r hr => by simp [hok r hr]
  rw [varuintLen, List.take_length, List.append_assoc] at hrun
  refine ⟨_, hrun, fun r hr => ?_, by simp [hnone]⟩
  rcases List.mem_append.1 hr with hr | hr
  · exact .inl (hok r hr)
  · exact .inr (List.mem_singleton.1 hr ▸ rfl)

/-- Settles O42: only an OK leaves the decoder holding something; and a clear decoder takes one encoding after another. -/
theorem backToBackVaruintsDecode : Obligations.BackToBackVaruintsDecode := by
  refine ⟨fun i s t r hi h hr hend => ?_, fun vs s hs => ?_⟩
  · obtain ⟨u, r', he, hu⟩ := exec_dec_reset_or_ok hi s
    obtain ⟨rfl, rfl⟩ := response_of_exec he rfl h hr
    rcases hu with rfl | hok
    · rfl
    · simp [hok] at hend
  · induction vs generalizing s with
    | nil => exact ⟨[], by simp [execAll], by simp, rfl⟩
    | cons v vs ih =>
      obtain ⟨qs, hfirst, hqs, hqval⟩ := execAll_decByte_varuintEncode v hs
      obtain ⟨rs, hrest, hrs, hrval⟩ := ih (s.pushRsps qs) hs
      refine ⟨qs ++ rs, ?_, ?_, ?_⟩
      · rw [List.flatMap_cons, List.map_append, execAll_append hfirst, hrest]
        simp [State.pushRsps]
      · exact List.forall_mem_append.2 ⟨hqs, hrs⟩
      · rw [List.filter_append, List.map_append, hqval, hrval, List.singleton_append]

end Sys2Proof.Machine
end

section
/-! The CRC function (41_crc8 R142): the table of one step, and one step as a linear map that loses nothing. -/

namespace Sys2Proof.Machine

/-- The printed table is T[i] = crc_step(0x00, i) (R142 (a)). -/
theorem crcTable_getElem? : ∀ i : Byte, crcTable[i.toNat]? = some (crcStep 0 i) := by decide

/-- The iteration depends on c XOR d alone (R142 (a)). -/
theorem crcStep_zero_xor (c d : Byte) : crcStep 0 (c ^^^ d) = crcStep c d :=
  congrArg (crcShifts 8) BitVec.zero_xor

/-- Settles O34: the printed table is the step from 0x00, and the step depends on c XOR d alone. -/
theorem crcStepIsTheSpecTable : Obligations.CrcStepIsTheSpecTable := by
  intro c d
  rw [crcTable_getElem?, crcStep_zero_xor]

theorem crcShift_xor (x y : Byte) : crcShift (x ^^^ y) = crcShift x ^^^ crcShift y := by
  simp only [crcShift, BitVec.getLsbD_xor, BitVec.shiftLeft_xor_distrib]
  cases x.getLsbD 7 <;> cases y.getLsbD 7
  · rfl
  · exact BitVec.xor_assoc ..
  · show x <<< 1 ^^^ y <<< 1 ^^^ Config.crcPoly = x <<< 1 ^^^ Config.crcPoly ^^^ y <<< 1
    ac_rfl
  · show x <<< 1 ^^^ y <<< 1 = x <<< 1 ^^^ Config.crcPoly ^^^ (y <<< 1 ^^^ Config.crcPoly)
    rw [BitVec.xor_assoc, BitVec.xor_comm Config.crcPoly, BitVec.xor_assoc, BitVec.xor_self, BitVec.xor_zero]

theorem crcShifts_xor (n : Nat) (x y : Byte) : crcShifts n (x ^^^ y) = crcShifts n x ^^^ crcShifts n y := by
  induction n generalizing x y with
  | zero => rfl
  | succ n ih => rw [crcShifts, crcShift_xor, ih, crcShifts, crcShifts]

theorem crcStep_xor (c c' d d' : Byte) : crcStep (c ^^^ c') (d ^^^ d') = crcStep c d ^^^ crcStep c' d' := by
  rw [crcStep, crcStep, crcStep, ← crcShifts_xor]
  congr 1
  ac_rfl

/-- The polynomial's constant term keeps at bit 0 the bit shifted out, so that nothing is lost (R142 (e)). -/
theorem crcShift_getLsbD_zero (x : Byte) : (crcShift x).getLsbD 0 = x.getLsbD 7 := by
  unfold crcShift
  split <;> simp_all [Config.crcPoly]

theorem eq_zero_of_crcShift_eq_zero {x : Byte} (h : crcShift x = 0) : x = 0 := by
  have h7 : ¬ x.getLsbD 7 = true := by
    rw [← crcShift_getLsbD_zero, h]
    decide
  have hlt : ¬ 128 ≤ x.toNat := mt (continues_iff x).2 h7
  rw [crcShift, if_neg h7] at h
  bv_omega

theorem crcShift_injective : Function.Injective crcShift := fun x y h =>
  BitVec.xor_eq_zero_iff.1 (eq_zero_of_crcShift_eq_zero ((crcShift_xor x y).trans (BitVec.xor_eq_zero_iff.2 h)))

theorem crcShifts_injective (n : Nat) : Function.Injective (crcShifts n) := by
  induction n with
  | zero => exact fun _ _ h => h
  | succ n ih => exact ih.comp crcShift_injective

theorem crcStep_right_injective (c : Byte) : Function.Injective (crcStep c) := fun _ _ h =>
  (BitVec.xor_right_inj c).1 (crcShifts_injective 8 h)

theorem crcStep_left_injective (d : Byte) : Function.Injective (crcStep · d) := fun _ _ h =>
  (BitVec.xor_left_inj d).1 (crcShifts_injective 8 h)

@[simp] theorem crcStep_self (c : Byte) : crcStep c c = 0 := by
  rw [crcStep, BitVec.xor_self]
  rfl

end Sys2Proof.Machine
end

section
/-! The CRC of a string (41_crc8 R141, R142): its residue, its linearity, and what it detects. -/

namespace Sys2Proof.Machine

/-- The final XOR is with 0x00 (R141). -/
theorem crc8_eq_foldl (s : List Byte) : crc8 s = s.foldl crcStep 0 := BitVec.xor_zero

/-- Settles O35: the last step takes the accumulator itself. -/
theorem crcResidueIsZero : Obligations.CrcResidueIsZero := by
  intro s
  rw [crc8_append_singleton, crcStep_self]

theorem foldl_crcStep_xor {a b : List Byte} (h : a.length = b.length) (c c' : Byte) :
    (List.zipWith (· ^^^ ·) a b).foldl crcStep (c ^^^ c') = a.foldl crcStep c ^^^ b.foldl crcStep c' := by
  induction a generalizing b c c' with
  | nil =>
    obtain rfl := List.length_eq_zero_iff.1 h.symm
    rfl
  | cons d a ih =>
    obtain ⟨d', b, rfl⟩ := List.exists_cons_of_length_eq_add_one h.symm
    simp only [List.zipWith_cons_cons, List.foldl_cons, crcStep_xor]
    exact ih (Nat.succ.inj h) ..

/-- Settles O36: the steps are linear, and the initial value is its own XOR. -/
theorem crcIsLinear : Obligations.CrcIsLinear := by
  intro a b h
  simp only [crc8_eq_foldl]
  exact foldl_crcStep_xor h 0 0

/-- Whatever bytes follow, two different accumulators stay different. -/
theorem foldl_crcStep_injective (s : List Byte) : Function.Injective (s.foldl crcStep) := by
  induction s with
  | nil => exact fun _ _ h => h
  | cons d s ih => exact ih.comp (crcStep_left_injective d)

/-- Settles O37: the changed byte changes the accumulator, and the bytes after it keep the two accumulators apart. -/
theorem crcDetectsAnyOneByteChange : Obligations.CrcDetectsAnyOneByteChange := by
  intro s j x hj hx h
  obtain ⟨p, d, q, rfl, -, hmod⟩ := List.exists_of_modify (· ^^^ x) hj
  rw [hmod] at h
  simp only [crc8_eq_foldl, List.foldl_append, List.foldl_cons] at h
  have hd : d ^^^ x = d := crcStep_right_injective _ (foldl_crcStep_injective q h)
  exact hx ((BitVec.xor_right_inj d).1 (hd.trans BitVec.xor_zero.symm))

end Sys2Proof.Machine
end

section
/-! The CRC unit's commands (41_crc8 R145, R146) compute the CRC of the bytes sent (R143). -/

namespace Sys2Proof.Machine

/-- Settles O26: CRC_BYTE's form reads DATA[7:0], and neither answer has a case. -/
theorem crcCommandsSetTheAccumulator : Obligations.CrcCommandsSetTheAccumulator := by
  refine ⟨fun data => ⟨decode_append .crcClr data, decode_append .crcByte data⟩, fun _ => rfl, fun d s => ?_⟩
  rw [exec_crcByte d rfl, BitVec.ofNat_toNat]
  rfl

@[simp] theorem State.pushRsp_setCrc (s : State) (r : Response) (c : Byte) :
    (s.pushRsp r).setCrc c = (s.setCrc c).pushRsp r := rfl

@[simp] theorem State.pushRsps_setCrc (s : State) (rs : List Response) (c : Byte) :
    (s.pushRsps rs).setCrc c = (s.setCrc c).pushRsps rs := rfl

@[simp] theorem State.setCrc_setCrc (s : State) (c c' : Byte) : (s.setCrc c).setCrc c' = s.setCrc c' := rfl

theorem State.setCrc_eq_self {s : State} {c : Byte} (h : s.crcAcc = c) : s.setCrc c = s := by
  subst h
  rfl

/-- From a CRC_ACC of 0x00, CRC_BYTEs leave there the CRC of their bytes; each answers OK, the last with that CRC. -/
theorem execAll_crcByte (bs : List Byte) {s : State} (hs : s.crcAcc = 0) : ∃ rs : List Response,
    execAll (bs.map .crcByte) s = .next ((s.setCrc (crc8 bs)).pushRsps rs) ∧
    rs.length = bs.length ∧ (∀ r ∈ rs, r.status = .ok) ∧
    (bs ≠ [] → rs.getLast?.map (·.value) = some (zext64 (crc8 bs))) := by
  induction bs using List.reverseRecOn with
  | nil => exact ⟨[], by rw [State.setCrc_eq_self (c := crc8 []) hs, State.pushRsps_nil]; rfl, rfl, nofun, nofun⟩
  | append_singleton bs d ih =>
    obtain ⟨rs, hrun, hlen, hok, -⟩ := ih
    have hlast := exec_crcByte (s := (s.setCrc (crc8 bs)).pushRsps rs) (c := crc8 bs) d rfl
    rw [State.pushRsps_setCrc, State.setCrc_setCrc, State.pushRsps_pushRsp, ← crc8_append_singleton] at hlast
    have hboth := (execAll_append hrun [.crcByte d]).trans (execAll_cons hlast [])
    rw [List.map_append]
    refine ⟨_, hboth, by simp [hlen], ?_, fun _ => by rw [List.getLast?_concat, Option.map_some]⟩
    exact List.forall_mem_append.2 ⟨hok, List.forall_mem_singleton.2 rfl⟩

/-- Settles O45: CRC_CLR leaves CRC_ACC 0x00, and register 0 is CRC_ACC. -/
theorem crcCommandsComputeCrc8 : Obligations.CrcCommandsComputeCrc8 := by
  intro s bs
  obtain ⟨rs, hrun, hlen, hok, hlast⟩ := execAll_crcByte bs (s := (s.setCrc Config.crcInit).pushRsp { status := .ok }) rfl
  rw [← execAll_cons (i := .crcClr) rfl, State.pushRsp_setCrc, State.setCrc_setCrc, State.pushRsp_pushRsps] at hrun
  exact ⟨_, rs, hrun, rfl, hlen, hok, hlast, rfl⟩

end Sys2Proof.Machine
end

section
/-! Frames and the slices of a stream (42_framer R160 to R163), and their laws (R165). -/

namespace Sys2Proof.Machine

/-- A payload between its length byte and a trailer, right or wrong. -/
def packet (p : List Byte) (t : Byte) : List Byte := BitVec.ofNat 8 p.length :: (p ++ [t])

@[simp] theorem length_packet (p : List Byte) (t : Byte) : (packet p t).length = p.length + 2 := by
  simp [packet]

theorem headD_packet (p : List Byte) (t : Byte) : (packet p t).headD 0 = BitVec.ofNat 8 p.length := rfl

theorem toNat_ofNat_of_le {n : Nat} (h : n ≤ 255) : (BitVec.ofNat 8 n).toNat = n :=
  Nat.mod_eq_of_lt (Nat.lt_succ_of_le h)

/-- A length byte and the rest of its packet. -/
theorem cons_eq_packet {l t : Byte} {p : List Byte} (h : p.length = l.toNat) : l :: (p ++ [t]) = packet p t := by
  rw [packet, h, BitVec.ofNat_toNat, BitVec.setWidth_eq]

theorem frame_eq_ok {p f : List Byte} : frame p = .ok f ↔ p.length ≤ 255 ∧ f = packet p (crc8 p) := by
  unfold frame
  split
  · next h => exact ⟨nofun, fun hp => absurd hp.1 (Nat.not_le.2 h)⟩
  · next h => exact ⟨fun hf => ⟨Nat.not_lt.1 h, (Except.ok.inj hf).symm⟩, fun hf => congrArg Except.ok hf.2.symm⟩

theorem unframe_packet {p : List Byte} (hp : p.length ≤ 255) (t : Byte) :
    unframe (packet p t) =
      if t = crc8 p then .ok ⟨BitVec.ofNat 8 p.length, p, t⟩ else .error .checksumMismatch := by
  simp only [unframe, packet, toNat_ofNat_of_le hp, List.drop_left, List.take_left]

/-- Settles O49: the trailer of a frame is the CRC of its payload. -/
theorem unframeOfFrame : Obligations.UnframeOfFrame :=
  fun _ hp => ⟨_, frame_eq_ok.2 ⟨hp, rfl⟩, (unframe_packet hp _).trans (if_pos rfl)⟩

/-- The residue tells a right trailer (R142 (c)). -/
theorem crc8_append_eq_zero_iff (p : List Byte) (t : Byte) : crc8 (p ++ [t]) = 0 ↔ t = crc8 p := by
  rw [crc8_append_singleton]
  refine ⟨fun h => crcStep_right_injective (crc8 p) (h.trans (crcStep_self _).symm), ?_⟩
  rintro rfl
  exact crcStep_self _

/-- A length byte, that many payload bytes and a trailer: where they leave a residue, the trailer is wrong. -/
theorem unframe_eq_error {l : Byte} {w : List Byte} (hw : w.length = l.toNat + 1) (hres : crc8 w ≠ 0) :
    unframe (l :: w) = .error .checksumMismatch := by
  obtain ⟨p, t, rfl⟩ := (List.eq_nil_or_concat' w).resolve_left (List.ne_nil_of_length_eq_add_one hw)
  have hp : p.length = l.toNat := by simpa using hw
  rw [cons_eq_packet hp, unframe_packet (hp ▸ Nat.le_of_lt_succ l.isLt), if_neg (mt (crc8_append_eq_zero_iff p t).2 hres)]

/-- Settles O51: the change leaves a residue, whether it is in the payload or in the trailer. -/
theorem oneByteChangeFailsUnframe : Obligations.OneByteChangeFailsUnframe := by
  intro p f j x hf hj hjf hx
  obtain ⟨hp, rfl⟩ := frame_eq_ok.1 hf
  obtain ⟨k, rfl⟩ := Nat.exists_eq_add_of_le' hj
  have hk : k < (p ++ [crc8 p]).length := by simpa using hjf
  have hchange := crcDetectsAnyOneByteChange (p ++ [crc8 p]) k x hk hx
  rw [crcResidueIsZero] at hchange
  rw [packet, List.modify_succ_cons]
  exact unframe_eq_error (by simp [toNat_ofNat_of_le hp]) hchange

end Sys2Proof.Machine
end

section
/-! The framer's commands (42_framer R170 to R173), and that together they emit frame(p) (R185 (a)). -/

namespace Sys2Proof.Machine

/-- A byte zero-extended, as the statements write it. -/
theorem ofNat_toNat_eq_zext64 (b : Byte) : BitVec.ofNat 64 b.toNat = zext64 b := BitVec.ofNat_toNat ..

/-- Settles O27: STATE is looked at first, then the length. -/
theorem txStartOpensAFrameOrIsRefused : Obligations.TxStartOpensAFrameOrIsRefused := by
  refine ⟨fun n => decode_append .txStart n, fun n s => ⟨fun hbusy => exec_txStart_busy n rfl hbusy,
    fun hidle hn => exec_txStart_tooLarge rfl hidle hn, fun hidle hn => ?_⟩⟩
  rw [BitVec.ofNat_toNat]
  exact exec_txStart_open rfl hidle hn

/-- Settles O28: below LEN the count does not wrap. -/
theorem txBytePassesOnePayloadByte : Obligations.TxBytePassesOnePayloadByte :=
  ⟨fun data => decode_append .txByte data, fun d _ => ⟨fun hstate => exec_txByte_refused d rfl hstate,
    fun hbody hlt => ⟨_, toNat_succ_of_lt hlt, exec_txByte_body d rfl hbody⟩⟩⟩

/-- Settles O29: TX_END looks at STATE alone. -/
theorem txEndEmitsTheTrailer : Obligations.TxEndEmitsTheTrailer := by
  refine ⟨fun data => decode_append .txEnd data, fun s => ⟨fun hstate => exec_txEnd_refused rfl hstate,
    fun htrailer => ?_⟩⟩
  rw [ofNat_toNat_eq_zext64]
  exact exec_txEnd_trailer rfl htrailer

/-- Settles O30: the answer has no case. -/
theorem txAbortAbandonsTheFrame : Obligations.TxAbortAbandonsTheFrame :=
  ⟨fun data => decode_append .txAbort data, fun _ => exec_txAbort rfl⟩

@[simp] theorem State.pushRsp_setTx (s : State) (r : Response) (u : TxUnit) :
    (s.pushRsp r).setTx u = (s.setTx u).pushRsp r := rfl

@[simp] theorem State.pushRsps_setTx (s : State) (rs : List Response) (u : TxUnit) :
    (s.pushRsps rs).setTx u = (s.setTx u).pushRsps rs := rfl

@[simp] theorem State.setTx_setTx (s : State) (u v : TxUnit) : (s.setTx u).setTx v = s.setTx v := rfl

theorem State.setTx_eq_self {s : State} {u : TxUnit} (h : s.tx = u) : s.setTx u = s := by
  subst h
  rfl

/-- A TX_BYTE that the frame still has room for is emitted and passed. -/
theorem exec_txByte_txPassed_emits {n : U64} {q : List Byte} (d : Byte) {s : State} (hn : n.toNat ≤ 255)
    (hq : q.length < n.toNat) (hs : s.tx = txPassed n q) : ∃ c : Byte,
      exec (.txByte d) s = .next ((s.setTx (txPassed n (q ++ [d]))).pushRsp
        { status := .ok, bvalid := true, byte := d, count := c }) := by
  have hrun := exec_txByte_body d hs (if_neg hq.ne)
  have htx := exec_txByte_txPassed hn (hs.trans (by rw [List.take_of_length_le hq.le])) hrun
  rw [List.take_of_length_le (by simpa using hq), State.pushRsp_tx, State.setTx_tx] at htx
  rw [htx] at hrun
  exact ⟨_, hrun⟩

/-- TX_BYTEs within an open frame emit and pass their bytes. -/
theorem execAll_txByte {n : U64} (hn : n.toNat ≤ 255) {p : List Byte} (hp : p.length ≤ n.toNat) {s : State}
    (hs : s.tx = txPassed n []) : ∃ rs : List Response,
      execAll (p.map .txByte) s = .next ((s.setTx (txPassed n p)).pushRsps rs) ∧
      emitted rs = p ∧ rs.map (·.status) = List.replicate p.length .ok := by
  induction p using List.reverseRecOn with
  | nil => exact ⟨[], by rw [State.setTx_eq_self hs, State.pushRsps_nil]; rfl, rfl, rfl⟩
  | append_singleton p d ih =>
    rw [List.length_append, List.length_singleton] at hp
    obtain ⟨rs, hrun, hemit, hstatus⟩ := ih (by omega)
    obtain ⟨c, hlast⟩ := exec_txByte_txPassed_emits (s := (s.setTx (txPassed n p)).pushRsps rs) d hn hp rfl
    rw [State.pushRsps_setTx, State.setTx_setTx, State.pushRsps_pushRsp] at hlast
    have hboth := (execAll_append hrun [.txByte d]).trans (execAll_cons hlast [])
    rw [List.map_append]
    refine ⟨_, hboth, ?_, ?_⟩
    · rw [emitted, List.filter_append, List.map_append]
      exact congrArg (· ++ [d]) hemit
    · rw [List.map_append, hstatus, List.length_append, List.replicate_add]
      rfl

theorem emitted_append (rs rs' : List Response) : emitted (rs ++ rs') = emitted rs ++ emitted rs' := by
  simp [emitted]

/-- Settles O46: TX_START emits the length, the TX_BYTEs the payload, and TX_END the CRC that the payload has left. -/
theorem framerCommandsEmitTheFrame : Obligations.FramerCommandsEmitTheFrame := by
  intro s p n hidle hn
  refine ⟨fun hp => ?_, fun hp => ⟨if_pos hp, exec_txStart_tooLarge rfl hidle (hn ▸ hp)⟩⟩
  have hn255 : n.toNat ≤ 255 := hn ▸ hp
  have hfirst := exec_txStart_open rfl hidle hn255
  rw [← txPassed_nil] at hfirst
  generalize hr : Response.mk _ _ _ _ _ = r at hfirst
  obtain ⟨rs, hbody, hemit, hstatus⟩ := execAll_txByte hn255 hn.ge (s := (s.setTx (txPassed n [])).pushRsp r) rfl
  rw [State.pushRsp_setTx, State.setTx_setTx, State.pushRsp_pushRsps] at hbody
  have hlast := exec_txEnd_trailer (x := txPassed n p) (s := (s.setTx _).pushRsps (r :: rs)) rfl (if_pos hn.symm)
  rw [State.pushRsps_setTx, State.setTx_setTx, State.pushRsps_pushRsp] at hlast
  have hrun := ((execAll_cons hfirst _).trans (execAll_append hbody _)).trans (execAll_cons hlast [])
  refine ⟨_, _, hrun, rfl, ?_, ?_⟩
  · refine frame_eq_ok.2 ⟨hp, ?_⟩
    rw [emitted_append, ← List.singleton_append, emitted_append, hemit, packet, ← hn, BitVec.ofNat_toNat, ← hr]
    rfl
  · rw [List.map_append, List.map_cons, hstatus, ← hr]
    rfl

end Sys2Proof.Machine
end

section
/-! The slices of a stream (42_framer R162), by induction over its packets, and the laws of splitStream (R165). -/

namespace Sys2Proof.Machine

/-- What holds of no bytes, of a packet that is cut off, and of a packet before a rest it holds of, holds of every stream
(the loop of R162). -/
theorem stream_induction {P : List Byte → Prop} (nil : P [])
    (cut : ∀ (l : Byte) (p : List Byte), p.length ≤ l.toNat → P (l :: p))
    (packet : ∀ (p : List Byte) (t : Byte) (s : List Byte), p.length ≤ 255 → P s → P (packet p t ++ s))
    (s : List Byte) : P s := by
  induction hn : s.length using Nat.strong_induction_on generalizing s with
  | _ n ih =>
    cases s with
    | nil => exact nil
    | cons l w =>
      rcases Nat.lt_or_ge l.toNat w.length with hlt | hle
      · have hp : (w.take l.toNat).length = l.toNat := List.length_take_of_le hlt.le
        have hrest : P (w.drop (l.toNat + 1)) :=
          ih _ (by rw [← hn, List.length_drop, List.length_cons]; omega) _ rfl
        have hs := packet (w.take l.toNat) w[l.toNat] _ (hp.trans_le (Nat.le_of_lt_succ l.isLt)) hrest
        rwa [← cons_eq_packet hp, List.take_concat_get', List.cons_append, List.take_append_drop] at hs
      · exact cut l w hle

/-- The slices of a stream and its end, where a stream with no bytes has ended clean (the loop of R162, run to its end). -/
def splitRest (s : List Byte) : List (List Byte) × StreamEnd := splitLoop s.length s

theorem splitStream_of_ne_nil {s : List Byte} (h : s ≠ []) : splitStream s = splitRest s := if_neg h

theorem splitRest_nil : splitRest [] = ([], .clean) := rfl

theorem splitRest_cut {l : Byte} {p : List Byte} (h : p.length ≤ l.toNat) : splitRest (l :: p) = ([], .truncated) :=
  (splitLoop_eq l p).trans (if_pos (Nat.lt_succ_of_le h))

theorem splitRest_packet_append {p : List Byte} (hp : p.length ≤ 255) (t : Byte) (s : List Byte) :
    splitRest (packet p t ++ s) = (packet p t :: (splitRest s).1, (splitRest s).2) := by
  have hw : (p ++ [t] ++ s).length = p.length + 1 + s.length := by simp [Nat.add_assoc, Nat.add_comm 1]
  rw [packet, List.cons_append, splitRest, splitLoop_eq, if_neg (by rw [toNat_ofNat_of_le hp]; omega), toNat_ofNat_of_le hp,
    List.take_left' (by simp), List.drop_left' (by simp)]
  rfl

theorem splitRest_frames {ps fs : List (List Byte)} (h : ps.map frame = fs.map Except.ok) :
    splitRest fs.flatten = (fs, .clean) := by
  induction fs generalizing ps with
  | nil => rfl
  | cons f fs ih =>
    obtain ⟨p, ps, rfl, hf, hfs⟩ := List.map_eq_cons_iff.1 h
    obtain ⟨hp, rfl⟩ := frame_eq_ok.1 hf
    rw [List.flatten_cons, splitRest_packet_append hp, ih hfs]

/-- Settles O50: each frame is a packet, so it is the next slice; and no bytes have no slices. -/
theorem splitStreamOfFrames : Obligations.SplitStreamOfFrames := by
  intro ps fs hne h
  have hrest := splitRest_frames h
  refine (splitStream_of_ne_nil fun hnil => hne ?_).trans hrest
  rw [hnil] at hrest
  cases hrest
  exact List.map_eq_nil_iff.1 h

/-- The slices are packets that the stream begins with, and a clean end leaves nothing after them. -/
theorem splitRest_packets (s : List Byte) :
    (∃ w, s = (splitRest s).1.flatten ++ w ∧ ((splitRest s).2 = .clean → w = [])) ∧
    ∀ q ∈ (splitRest s).1, ∃ p t, p.length ≤ 255 ∧ q = packet p t := by
  induction s using stream_induction with
  | nil => exact ⟨⟨[], rfl, fun _ => rfl⟩, nofun⟩
  | cut l p h =>
    rw [splitRest_cut h]
    exact ⟨⟨l :: p, rfl, nofun⟩, nofun⟩
  | packet p t s hp ih =>
    obtain ⟨⟨w, hw, hclean⟩, hq⟩ := ih
    rw [splitRest_packet_append hp]
    exact ⟨⟨w, by rw [List.flatten_cons, List.append_assoc, ← hw], hclean⟩,
      List.forall_mem_cons.2 ⟨⟨p, t, hp, rfl⟩, hq⟩⟩

/-- Settles O52: a slice is a packet, which has its length byte's number of bytes and two more. -/
theorem slicesCoverAPrefixOfTheStream : Obligations.SlicesCoverAPrefixOfTheStream := by
  intro s
  by_cases hs : s = []
  · subst hs
    exact ⟨⟨[], rfl⟩, fun _ => rfl, nofun⟩
  · rw [splitStream_of_ne_nil hs]
    obtain ⟨⟨w, hw, hclean⟩, hpackets⟩ := splitRest_packets s
    refine ⟨⟨w, hw.symm⟩, fun h => ?_, fun q hq => ?_⟩
    · rw [hclean h, List.append_nil] at hw
      exact hw.symm
    · obtain ⟨p, t, hp, rfl⟩ := hpackets q hq
      refine ⟨by rw [length_packet, headD_packet, toNat_ofNat_of_le hp], ?_⟩
      rw [unframe_packet hp]
      by_cases ht : t = crc8 p
      · exact .inl ⟨_, if_pos ht⟩
      · exact .inr (if_neg ht)

end Sys2Proof.Machine
end

section
/-! The deframer's commands (42_framer R180 to R182), and that together they take in a packet (R185 (b), R271). -/

namespace Sys2Proof.Machine

/-- The received and the computed CRC as the mismatch response's value holds them (R180). -/
theorem append_setWidth_eq_ofNat (d c : Byte) : (d ++ c).setWidth 64 = BitVec.ofNat 64 (256 * d.toNat + c.toNat) := by
  rw [← BitVec.ofNat_toNat, toNat_append_eq]
  rfl

/-- Settles O31: below LEN the payload byte's entry exists, and the count does not wrap. -/
theorem rxByteTakesLengthPayloadOrTrailer : Obligations.RxByteTakesLengthPayloadOrTrailer := by
  refine ⟨fun data => decode_append .rxByte data, fun d s => ⟨fun hlen => exec_rxByte_len d rfl hlen,
    fun hbody hlt => ?_, fun hcrc hd => ?_, fun hcrc hd => ?_⟩⟩
  · have hroom : s.rx.cnt.toNat < 255 := hlt.trans_le (Nat.le_of_lt_succ s.rx.len.isLt)
    exact ⟨_, s.rxBuf.write s.rx.cnt.toNat d, toNat_succ_of_lt hlt, Memory.read_write_self .., fun a ha =>
      s.rxBuf.read_write_other d ha, exec_rxByte_body d rfl rfl hbody hroom⟩
  · rw [exec_rxByte_trailer d rfl hcrc, if_pos hd, ofNat_toNat_eq_zext64]
    rfl
  · rw [exec_rxByte_trailer d rfl hcrc, if_neg hd, ← append_setWidth_eq_ofNat]
    rfl

/-- Settles O32: in LEN, SEEN decides; in BODY and CRC the packet is cut off. -/
theorem rxEosReportsHowTheStreamEnded : Obligations.RxEosReportsHowTheStreamEnded := by
  refine ⟨fun data => decode_append .rxEos data, fun s => ⟨fun hlen hseen => ?_, fun hlen hseen =>
    exec_rxEos_empty rfl hlen hseen, fun hstate => ?_⟩⟩
  · rw [exec_rxEos_clean rfl hlen hseen, ← hlen]
    rfl
  · have hcode : s.rx.state.code.setWidth 64 = if s.rx.state = .body then 1 else 2 := by
      cases hx : s.rx.state with
      | len => exact absurd hx hstate
      | body => rfl
      | crc => rfl
    rw [exec_rxEos_truncated rfl hstate, hcode]
    rfl

/-- Settles O33: the entries are those with an index up to 254. -/
theorem rxRdbufReadsAnEntry : Obligations.RxRdbufReadsAnEntry := by
  refine ⟨fun data => decode_append .rxRdbuf data, fun i s => ⟨fun hi => ?_, fun hi => ?_⟩⟩
  · rw [exec_rxRdbuf_read rfl (Nat.not_lt.2 hi), ofNat_toNat_eq_zext64]
  · subst hi
    exact exec_rxRdbuf_range (by decide)

@[simp] theorem State.pushRsps_setRx (s : State) (rs : List Response) (x : RxUnit) :
    (s.pushRsps rs).setRx x = (s.setRx x).pushRsps rs := rfl

@[simp] theorem State.setRx_setRxBuf (s : State) (x : RxUnit) (m : Memory) :
    (s.setRx x).setRxBuf m = (s.setRxBuf m).setRx x := rfl

@[simp] theorem State.pushRsps_setRxBuf (s : State) (rs : List Response) (m : Memory) :
    (s.pushRsps rs).setRxBuf m = (s.setRxBuf m).pushRsps rs := rfl

@[simp] theorem State.setRx_setRx (s : State) (x y : RxUnit) : (s.setRx x).setRx y = s.setRx y := rfl

@[simp] theorem State.setRxBuf_setRxBuf (s : State) (m m' : Memory) : (s.setRxBuf m).setRxBuf m' = s.setRxBuf m' := rfl

/-- RX_CTL when it has taken a length byte and these of its payload bytes. -/
def rxTaken (l : Byte) (p : List Byte) : RxUnit :=
  ⟨if p.length = l.toNat then .crc else .body, true, l, BitVec.ofNat 8 p.length, crc8 p⟩

theorem rxTaken_nil (d : Byte) : rxTaken d [] = ⟨if d = 0 then .crc else .body, true, d, 0, Config.crcInit⟩ := by
  have h0 : 0 = d.toNat ↔ d = 0 := ⟨fun h => BitVec.eq_of_toNat_eq h.symm, fun h => h ▸ rfl⟩
  simp only [rxTaken, List.length_nil, h0, crc8_nil]
  rfl

/-- RX_BUF holds these bytes from entry 0 on, and above them what it held before (R271). -/
def Memory.Filled (m m' : Memory) (p : List Byte) : Prop := ∀ a, m'.read a = p[a]?.getD (m.read a)

theorem Memory.Filled.write {m m' : Memory} {p : List Byte} (h : m.Filled m' p) (d : Byte) :
    m.Filled (m'.write p.length d) (p ++ [d]) := by
  intro a
  by_cases ha : a = p.length
  · subst ha
    rw [Memory.read_write_self, List.getElem?_concat_length]
    rfl
  · rw [Memory.read_write_other _ _ ha, h a, List.getElem?_append]
    split
    · rfl
    · rw [List.getElem?_eq_none (by omega), List.getElem?_eq_none (by simp; omega)]

/-- A payload byte that the packet still needs is stored after those before it. -/
theorem exec_rxByte_rxTaken {l : Byte} {p : List Byte} (d : Byte) {s : State} (hp : p.length < l.toNat)
    (hs : s.rx = rxTaken l p) : ∃ c : Byte,
      exec (.rxByte d) s = .next (((s.setRxBuf (s.rxBuf.write p.length d)).setRx (rxTaken l (p ++ [d]))).pushRsp
        { status := .ok, count := c }) := by
  have hl := l.isLt
  have hcnt : BitVec.ofNat 8 p.length + 1 = BitVec.ofNat 8 (p.length + 1) := by simp [BitVec.ofNat_add]
  have hnat : (rxTaken l p).cnt.toNat = p.length := toNat_ofNat_of_le (by omega)
  have hlast : BitVec.ofNat 8 (p.length + 1) = l ↔ p.length + 1 = l.toNat := by
    rw [← BitVec.toNat_inj, toNat_ofNat_of_le (by omega)]
  have hrun := exec_rxByte_body d hs rfl (if_neg hp.ne) (by omega)
  rw [hnat] at hrun
  refine ⟨BitVec.ofNat 8 (p.length + 1), ?_⟩
  simp only [rxTaken, crc8_append_singleton, List.length_append, List.length_singleton, ← hlast, ← hcnt]
  exact hrun

/-- In LEN, a length byte and no more payload bytes than it declares are answered OK and taken in. -/
theorem execAll_rxByte_taken {l : Byte} {p : List Byte} (hp : p.length ≤ l.toNat) {s : State} (hs : s.rx.state = .len) :
    ∃ (m : Memory) (rs : List Response),
      execAll ((l :: p).map .rxByte) s = .next (((s.setRxBuf m).setRx (rxTaken l p)).pushRsps rs) ∧
      s.rxBuf.Filled m p ∧ rs.map (·.status) = List.replicate (p.length + 1) .ok := by
  induction p using List.reverseRecOn with
  | nil =>
    have hfirst := exec_rxByte_len l rfl hs
    rw [← rxTaken_nil] at hfirst
    exact ⟨s.rxBuf, [_], execAll_cons hfirst [], fun _ => rfl, rfl⟩
  | append_singleton p d ih =>
    rw [List.length_append, List.length_singleton] at hp
    obtain ⟨m, rs, hrun, hfill, hstatus⟩ := ih (by omega)
    obtain ⟨c, hlast⟩ :=
      exec_rxByte_rxTaken (s := ((s.setRxBuf m).setRx (rxTaken l p)).pushRsps rs) d (by omega) rfl
    have hboth := (execAll_append hrun [.rxByte d]).trans (execAll_cons hlast [])
    rw [State.pushRsps_setRxBuf, State.setRx_setRxBuf, State.setRxBuf_setRxBuf, State.pushRsps_setRx, State.setRx_setRx,
      State.pushRsps_pushRsp] at hboth
    rw [← List.cons_append, List.map_append]
    refine ⟨_, _, hboth, hfill.write d, ?_⟩
    rw [List.map_append, hstatus, List.length_append, List.length_singleton, List.replicate_succ' (n := p.length + 1)]
    rfl

theorem sliceStatus_packet {p : List Byte} (hp : p.length ≤ 255) (t : Byte) :
    sliceStatus (packet p t) = if t = crc8 p then .done else .errChecksumMismatch := by
  by_cases ht : t = crc8 p <;> simp [sliceStatus, unframe_packet hp, ht]

/-- In LEN, a packet is answered OK up to its trailer, which is answered as unframe says of the packet, with the packet's
length; and RX_CTL is back in LEN. -/
theorem execAll_rxByte_packet {p : List Byte} (hp : p.length ≤ 255) (t : Byte) {s : State} (hs : s.rx.state = .len) :
    ∃ (m : Memory) (x : RxUnit) (rs : List Response) (r : Response),
      execAll ((packet p t).map .rxByte) s = .next (((s.setRxBuf m).setRx x).pushRsps (rs ++ [r])) ∧
      s.rxBuf.Filled m p ∧ x.state = .len ∧ x.seen = true ∧
      rs.map (·.status) = List.replicate (p.length + 1) .ok ∧
      r.status = sliceStatus (packet p t) ∧ r.count = BitVec.ofNat 8 p.length := by
  have hl := toNat_ofNat_of_le hp
  obtain ⟨m, rs, hrun, hfill, hstatus⟩ := execAll_rxByte_taken hl.ge hs
  have hlast := exec_rxByte_trailer (s := ((s.setRxBuf m).setRx (rxTaken _ p)).pushRsps rs) t rfl (if_pos hl.symm)
  have hboth := (execAll_append hrun [.rxByte t]).trans (execAll_cons hlast [])
  rw [State.pushRsps_setRx, State.setRx_setRx, State.pushRsps_pushRsp] at hboth
  rw [packet, ← List.cons_append, List.map_append]
  refine ⟨m, _, rs, _, hboth, hfill, rfl, rfl, hstatus, ?_, ?_⟩
  · rw [List.cons_append, ← packet, sliceStatus_packet hp, apply_ite Response.status]
    rfl
  · rw [apply_ite Response.count]
    exact ite_self _

/-- Settles O48: the packet's run, with its trailer's answer. -/
theorem receivedPacketFillsRxBuf : Obligations.ReceivedPacketFillsRxBuf := by
  intro s p b hs hp
  obtain ⟨m, x, rs, r, hrun, hfill, hlen, -, -, hstatus, hcount⟩ := execAll_rxByte_packet hp b hs
  rw [sliceStatus_packet hp] at hstatus
  refine ⟨_, rs, r, hrun, (List.append_assoc ..).symm, ?_, ?_, fun hb => ?_, fun k hk => ?_, fun a ha => ?_, hlen⟩
  · rw [hcount, toNat_ofNat_of_le hp]
  · rw [hstatus]
    split <;> simp [*]
  · rw [hstatus, if_neg hb]
  · refine (hfill k).trans ?_
    rw [List.getElem?_eq_getElem hk]
    rfl
  · refine (hfill a).trans ?_
    rw [List.getElem?_eq_none ha]
    rfl

end Sys2Proof.Machine
end

section
/-! The deframer on a whole stream (42_framer R163, R185 (b)). -/

namespace Sys2Proof.Machine

/-- The responses to the bytes of a stream: a report on the last byte of each of its slices, and OK otherwise, also on the
bytes left after the slices. -/
structure Reports (rs : List Response) (qs : List (List Byte)) (left : Nat) : Prop where
  statuses : rs.map (·.status) = qs.flatMap sliceStatuses ++ List.replicate left .ok
  counts : (rs.filter fun r => decide (r.status ≠ .ok)).map (·.count) = qs.map (·.headD 0)

theorem filter_status_eq_nil {rs : List Response} {n : Nat} (h : rs.map (·.status) = List.replicate n .ok) :
    rs.filter (fun r => decide (r.status ≠ .ok)) = [] := by
  refine List.filter_eq_nil_iff.2 fun r hr => ?_
  have hok : r.status = .ok := List.eq_of_mem_replicate (h ▸ List.mem_map_of_mem hr)
  simp [hok]

theorem reports_left {rs : List Response} {n : Nat} (h : rs.map (·.status) = List.replicate n .ok) : Reports rs [] n where
  statuses := h
  counts := by rw [filter_status_eq_nil h]; rfl

theorem Reports.cons {p : List Byte} {t : Byte} {rs rs' : List Response} {r : Response} {qs : List (List Byte)} {n : Nat}
    (h : Reports rs' qs n) (hp : p.length ≤ 255) (hok : rs.map (·.status) = List.replicate (p.length + 1) .ok)
    (hstatus : r.status = sliceStatus (packet p t)) (hcount : r.count = BitVec.ofNat 8 p.length) :
    Reports (rs ++ [r] ++ rs') (packet p t :: qs) n where
  statuses := by
    rw [List.map_append, List.map_append, hok, h.statuses, List.flatMap_cons, sliceStatuses, length_packet,
      List.append_assoc _ _ (List.replicate n Status.ok), List.map_singleton, hstatus]
    rfl
  counts := by
    have hreport : r.status ≠ .ok := by
      rw [hstatus, sliceStatus_packet hp]
      split <;> decide
    rw [List.filter_append, List.filter_append, filter_status_eq_nil hok, List.nil_append, List.map_append, h.counts,
      List.filter_cons_of_pos (by simpa using hreport), List.map_cons, hcount]
    rfl

/-- RX_CTL between packets at a stream's end, or within one. -/
def RxUnit.AtEnd (x : RxUnit) : StreamEnd → Prop
  | .clean => x.state = .len ∧ x.seen = true
  | .truncated => x.state ≠ .len
  | .empty => x.state = .len ∧ x.seen = false

/-- RX_EOS names the end that RX_CTL is at, and starts the next stream. -/
theorem exec_rxEos_atEnd {s : State} {e : StreamEnd} (h : s.rx.AtEnd e) : ∃ (x : RxUnit) (r : Response),
    exec .rxEos s = .next ((s.setRx x).pushRsp r) ∧ r.status = endStatus e ∧ x.state = .len ∧ x.seen = false := by
  cases e with
  | clean => exact ⟨_, _, exec_rxEos_clean rfl h.1 h.2, rfl, h.1, rfl⟩
  | truncated => exact ⟨_, _, exec_rxEos_truncated rfl h, rfl, rfl, rfl⟩
  | empty => exact ⟨s.rx, _, exec_rxEos_empty rfl h.1 h.2, rfl, h.1, h.2⟩

/-- Between the packets of a stream, the rest of the stream is reported slice by slice. -/
theorem execAll_rxByte_stream (bs : List Byte) {s : State} (hs : s.rx.AtEnd .clean) : ∃ (t : State) (rs : List Response),
    execAll (bs.map .rxByte) s = .next t ∧ t.hostRsp = s.hostRsp ++ rs ∧
    Reports rs (splitRest bs).1 (bs.length - (splitRest bs).1.flatten.length) ∧ t.rx.AtEnd (splitRest bs).2 := by
  induction bs using stream_induction generalizing s with
  | nil => exact ⟨s, [], rfl, (List.append_nil _).symm, reports_left rfl, hs⟩
  | cut l p hp =>
    obtain ⟨m, rs, hrun, -, hok⟩ := execAll_rxByte_taken hp hs.1
    rw [splitRest_cut hp]
    refine ⟨_, rs, hrun, rfl, reports_left hok, ?_⟩
    show (rxTaken l p).state ≠ .len
    rw [rxTaken]
    split <;> nofun
  | packet p t bs hp ih =>
    obtain ⟨m, x, qs, r, hfirst, -, hlen, hseen, hok, hstatus, hcount⟩ := execAll_rxByte_packet hp t hs.1
    obtain ⟨u, rs, hrest, hrsp, hreports, hend⟩ :=
      ih (s := ((s.setRxBuf m).setRx x).pushRsps (qs ++ [r])) ⟨hlen, hseen⟩
    rw [splitRest_packet_append hp, List.map_append, execAll_append hfirst, List.flatten_cons, List.length_append,
      List.length_append, Nat.add_sub_add_left]
    exact ⟨u, _, hrest, hrsp.trans (List.append_assoc ..), hreports.cons hp hok hstatus hcount, hend⟩

/-- A length byte is taken whether or not it is the stream's first (R180). -/
theorem exec_rxByte_setSeen {s : State} (hs : s.rx.state = .len) (d : Byte) :
    exec (.rxByte d) s = exec (.rxByte d) (s.setRx { s.rx with seen := true }) := by
  rw [exec_rxByte_len d rfl hs]
  exact (exec_rxByte_len (s := s.setRx { s.rx with seen := true }) d rfl hs).symm

/-- A stream received from its start is reported by its slices, and leaves RX_CTL at its end. -/
theorem execAll_rxByte_splitStream (bs : List Byte) {s : State} (hs : s.rx.AtEnd .empty) :
    ∃ (t : State) (rs : List Response),
      execAll (bs.map .rxByte) s = .next t ∧ t.hostRsp = s.hostRsp ++ rs ∧
      Reports rs (splitStream bs).1 (bs.length - (splitStream bs).1.flatten.length) ∧ t.rx.AtEnd (splitStream bs).2 := by
  cases bs with
  | nil => exact ⟨s, [], rfl, (List.append_nil _).symm, reports_left rfl, hs⟩
  | cons d bs =>
    rw [splitStream_of_ne_nil (List.cons_ne_nil d bs), List.map_cons, execAll, exec_rxByte_setSeen hs.1]
    exact execAll_rxByte_stream (d :: bs) (s := s.setRx { s.rx with seen := true }) ⟨hs.1, rfl⟩

/-- Settles O47: the bytes are reported by slices, and RX_EOS reports the end they leave RX_CTL at. -/
theorem deframerCommandsReportTheSlices : Obligations.DeframerCommandsReportTheSlices := by
  intro s bs hlen hseen
  obtain ⟨t, rs, hrun, hrsp, hreports, hend⟩ := execAll_rxByte_splitStream bs (s := s) ⟨hlen, hseen⟩
  obtain ⟨x, e, hlast, hstatus, hlen', hseen'⟩ := exec_rxEos_atEnd hend
  refine ⟨_, rs, e, (execAll_append hrun _).trans (execAll_cons hlast []), ?_, hreports.statuses, hreports.counts, hstatus,
    hlen', hseen'⟩
  rw [State.pushRsp_hostRsp, State.setRx_hostRsp, hrsp]

end Sys2Proof.Machine
end

section
/-! The control commands (43_control R210, R212). What SRST does is stated with the reset values (R211). -/

namespace Sys2Proof.Machine

/-- Settles O20: NOP's form reads no DATA, and its answer has no case. -/
theorem nopAnswersOkAndDoesNothing : Obligations.NopAnswersOkAndDoesNothing :=
  ⟨fun data => decode_append .nop data, fun _ => rfl⟩

theorem exec_regRd_assigned {s : State} {i : Byte} {v : U64} (h : s.readReg i = some v) :
    exec (.regRd i) s = .next (s.pushRsp { status := .ok, value := v }) := by
  simp only [exec, execRegRd, h, State.respond]

theorem exec_regRd_unassigned {s : State} {i : Byte} (h : s.readReg i = none) :
    exec (.regRd i) s = .next (s.pushRsp { status := .errRange }) := by
  simp only [exec, execRegRd, h, State.raise_eq_respond, State.respond]

theorem State.readReg_eq_none {s : State} {i : Byte} (h : 6 < i.toNat) : s.readReg i = none :=
  Option.not_isSome_iff_eq_none.1 (mt (s.readReg_isSome i).1 (Nat.not_le.2 h))

theorem State.exists_readReg_eq_some (s : State) {i : Byte} (h : i.toNat ≤ 6) : ∃ v, s.readReg i = some v :=
  Option.isSome_iff_exists.1 ((s.readReg_isSome i).2 h)

/-- Settles O21: the assigned numbers are those `readReg` has a value for, which widened keeps its fields at their bits. -/
theorem regRdReadsTheRegisterFile : Obligations.RegRdReadsTheRegisterFile := by
  refine ⟨fun data => decode_append .regRd data, fun i s =>
    ⟨fun hi => exec_regRd_unassigned (State.readReg_eq_none hi), fun hi => ?_⟩⟩
  obtain ⟨v, hv⟩ := s.exists_readReg_eq_some hi
  refine ⟨v, exec_regRd_assigned hv, ?_, ?_, ?_, ?_, ?_, ?_, ?_⟩ <;> rintro rfl <;> obtain rfl := Option.some.inj hv
  · exact BitVec.toNat_setWidth_of_le (by decide)
  · rfl
  · rw [BitVec.toNat_setWidth_of_le (by decide), EncUnit.ctl_toNat]
  · rfl
  · exact BitVec.toNat_setWidth_of_le (by decide)
  · rw [BitVec.toNat_setWidth_of_le (by decide), TxUnit.ctl_toNat]
    cases s.tx.state <;> rfl
  · rw [BitVec.toNat_setWidth_of_le (by decide), RxUnit.ctl_toNat]
    cases s.rx.state <;> rfl

end Sys2Proof.Machine
end

section
/-! The status codes, and the errors: who raises each, what it records and what is written alongside (60_exceptions R230,
R231). -/

namespace Sys2Proof.Machine

/-- Settles O53: the statuses are eleven, each with its row of R230. -/
theorem statusCodesAreTheSpecNumbers : Obligations.StatusCodesAreTheSpecNumbers := by
  refine ⟨by decide, fun st => ?_, fun st => ?_⟩
  · cases st <;> decide
  · cases st <;> decide

theorem Status.isError_eq_false_iff (st : Status) :
    st.isError = false ↔ st = .ok ∨ st = .done ∨ st = .streamEnd := by
  cases st <;> decide

/-- R231's table by command: in which states s the command fails, the state it writes, before the host receives the
response, and the response. -/
inductive ListedError (s : State) : Instr → State → Response → Prop where
  | encNext : s.enc.active = false → ListedError s .encNext s { status := .errSequence }
  | decByte {d : Byte} : s.dec.count = 9 → 2 ≤ d.toNat →
      ListedError s (.decByte d) (s.setDec DecUnit.reset) { status := .errMalformedVaruint, count := 10 }
  | decEnd : ListedError s .decEnd (s.setDec DecUnit.reset)
      { status := .errMalformedVaruint, count := s.dec.count.setWidth 8 }
  | txStartBusy {n : U64} : s.tx.state ≠ .idle → ListedError s (.txStart n) s { status := .errSequence }
  | txStartTooLarge {n : U64} : s.tx.state = .idle → 255 < n.toNat →
      ListedError s (.txStart n) s { status := .errPayloadTooLarge }
  | txByte {d : Byte} : s.tx.state ≠ .body → ListedError s (.txByte d) s { status := .errSequence }
  | txEnd : s.tx.state ≠ .trailer → ListedError s .txEnd s { status := .errSequence }
  | rxByte {d : Byte} : s.rx.state = .crc → d ≠ s.rx.crc →
      ListedError s (.rxByte d) (s.setRx { s.rx with state := .len, seen := true })
        { status := .errChecksumMismatch, value := (d ++ s.rx.crc).setWidth 64, count := s.rx.len }
  | rxEosEmpty : s.rx.state = .len → s.rx.seen = false → ListedError s .rxEos s { status := .errEmptyStream }
  | rxEosTruncated : s.rx.state ≠ .len →
      ListedError s .rxEos (s.setRx { s.rx with state := .len, seen := false })
        { status := .errTruncatedStream, value := s.rx.state.code.setWidth 64, count := s.rx.cnt }
  | regRd {i : Byte} : 6 < i.toNat → ListedError s (.regRd i) s { status := .errRange }
  | rxRdbuf {i : Byte} : 254 < i.toNat → ListedError s (.rxRdbuf i) s { status := .errRange }

/-- A command answers in this state without an error, or with one that R231 lists for it. -/
def FailsOnlyAsListed (i : Instr) (s : State) : Prop :=
  ∃ (u : State) (r : Response), exec i s = .next (u.pushRsp r) ∧ u.hostRsp = s.hostRsp ∧
    (r.status.isError = false ∨ ListedError s i u r)

theorem exec_control_failsOnlyAsListed {i : Instr} (hi : unitOf i = .control) (s : State) : FailsOnlyAsListed i s := by
  cases i <;> simp only [unitOf, reduceCtorEq] at hi
  case nop => exact ⟨_, _, rfl, rfl, .inl rfl⟩
  case srst => exact ⟨_, _, rfl, rfl, .inl rfl⟩
  case regRd n =>
    by_cases hn : n.toNat ≤ 6
    · obtain ⟨v, hv⟩ := s.exists_readReg_eq_some hn
      exact ⟨_, _, exec_regRd_assigned hv, rfl, .inl rfl⟩
    · have hn := Nat.lt_of_not_le hn
      exact ⟨_, _, exec_regRd_unassigned (State.readReg_eq_none hn), rfl, .inr (.regRd hn)⟩

theorem exec_crc_failsOnlyAsListed {i : Instr} (hi : unitOf i = .crc) (s : State) : FailsOnlyAsListed i s := by
  cases i <;> simp only [unitOf, reduceCtorEq] at hi
  case crcClr => exact ⟨_, _, rfl, rfl, .inl rfl⟩
  case crcByte d => exact ⟨_, _, exec_crcByte d rfl, rfl, .inl rfl⟩

theorem exec_enc_failsOnlyAsListed {i : Instr} (hi : unitOf i = .enc) (s : State) : FailsOnlyAsListed i s := by
  cases i <;> simp only [unitOf, reduceCtorEq] at hi
  case encLoad v => exact ⟨_, _, rfl, rfl, .inl rfl⟩
  case encNext =>
    by_cases ha : s.enc.active = true
    · by_cases hrest : s.enc.val >>> 7 = 0
      · exact ⟨_, _, exec_encNext_last rfl ha hrest, rfl, .inl rfl⟩
      · exact ⟨_, _, exec_encNext_more rfl ha hrest, rfl, .inl rfl⟩
    · exact ⟨_, _, exec_encNext_idle rfl ha, rfl, .inr (.encNext (Bool.eq_false_iff.2 ha))⟩

theorem exec_dec_failsOnlyAsListed {i : Instr} (hi : unitOf i = .dec) (s : State) : FailsOnlyAsListed i s := by
  cases i <;> simp only [unitOf, reduceCtorEq] at hi
  case decClr => exact ⟨_, _, rfl, rfl, .inl rfl⟩
  case decEnd => exact ⟨_, _, exec_decEnd rfl, rfl, .inr .decEnd⟩
  case decByte d =>
    by_cases ho : overflowsAt s.dec.count.toNat d = true
    · obtain ⟨hcount, hd⟩ := (overflowsAt_iff _ d).1 ho
      exact ⟨_, _, exec_decByte_overflow rfl ho, rfl, .inr (.decByte (BitVec.eq_of_toNat_eq hcount) hd)⟩
    · by_cases hc : continues d = true
      · exact ⟨_, _, exec_decByte_more rfl ho hc, rfl, .inl rfl⟩
      · exact ⟨_, _, exec_decByte_last rfl ho hc, rfl, .inl rfl⟩

theorem exec_tx_failsOnlyAsListed {i : Instr} (hi : unitOf i = .tx) (s : State) : FailsOnlyAsListed i s := by
  cases i <;> simp only [unitOf, reduceCtorEq] at hi
  case txStart n =>
    by_cases hidle : s.tx.state = .idle
    · by_cases hn : n.toNat ≤ 255
      · exact ⟨_, _, exec_txStart_open rfl hidle hn, rfl, .inl rfl⟩
      · have hn := Nat.lt_of_not_le hn
        exact ⟨_, _, exec_txStart_tooLarge rfl hidle hn, rfl, .inr (.txStartTooLarge hidle hn)⟩
    · exact ⟨_, _, exec_txStart_busy n rfl hidle, rfl, .inr (.txStartBusy hidle)⟩
  case txByte d =>
    by_cases hbody : s.tx.state = .body
    · exact ⟨_, _, exec_txByte_body d rfl hbody, rfl, .inl rfl⟩
    · exact ⟨_, _, exec_txByte_refused d rfl hbody, rfl, .inr (.txByte hbody)⟩
  case txEnd =>
    by_cases htrailer : s.tx.state = .trailer
    · exact ⟨_, _, exec_txEnd_trailer rfl htrailer, rfl, .inl rfl⟩
    · exact ⟨_, _, exec_txEnd_refused rfl htrailer, rfl, .inr (.txEnd htrailer)⟩
  case txAbort => exact ⟨_, _, exec_txAbort rfl, rfl, .inl rfl⟩

theorem exec_rx_failsOnlyAsListed {i : Instr} (hi : unitOf i = .rx) {s : State} (hroom : HasEntry i s) :
    FailsOnlyAsListed i s := by
  cases i <;> simp only [unitOf, reduceCtorEq] at hi
  case rxByte d =>
    cases hx : s.rx.state with
    | len => exact ⟨_, _, exec_rxByte_len d rfl hx, rfl, .inl rfl⟩
    | body => exact ⟨_, _, exec_rxByte_body d rfl rfl hx (hroom d rfl hx), rfl, .inl rfl⟩
    | crc =>
      refine ⟨_, _, exec_rxByte_trailer d rfl hx, rfl, ?_⟩
      split
      · exact .inl rfl
      · next hd => exact .inr (.rxByte hx hd)
  case rxEos =>
    by_cases hx : s.rx.state = .len
    · cases hseen : s.rx.seen with
      | true => exact ⟨_, _, exec_rxEos_clean rfl hx hseen, rfl, .inl rfl⟩
      | false => exact ⟨_, _, exec_rxEos_empty rfl hx hseen, rfl, .inr (.rxEosEmpty hx hseen)⟩
    · exact ⟨_, _, exec_rxEos_truncated rfl hx, rfl, .inr (.rxEosTruncated hx)⟩
  case rxRdbuf n =>
    by_cases hn : 254 < n.toNat
    · exact ⟨_, _, exec_rxRdbuf_range hn, rfl, .inr (.rxRdbuf hn)⟩
    · exact ⟨_, _, exec_rxRdbuf_read rfl hn, rfl, .inl rfl⟩

theorem exec_failsOnlyAsListed {i : Instr} {s : State} (hroom : HasEntry i s) : FailsOnlyAsListed i s := by
  cases hu : unitOf i with
  | control => exact exec_control_failsOnlyAsListed hu s
  | enc => exact exec_enc_failsOnlyAsListed hu s
  | dec => exact exec_dec_failsOnlyAsListed hu s
  | crc => exact exec_crc_failsOnlyAsListed hu s
  | tx => exact exec_tx_failsOnlyAsListed hu s
  | rx => exact exec_rx_failsOnlyAsListed hu hroom

/-- A word decodes to illegal only if its OP is no row's code (R75). -/
theorem code_ne_opField_of_illegal {w : CmdWord} {op : Byte} (hw : decode w = .illegal op) (o : Opcode) :
    o.code ≠ opField w := by
  intro ho
  obtain ⟨i, hi, -⟩ := decode_of_ofCode_some (ho ▸ Opcode.ofCode_code o)
  nomatch hi.symm.trans hw

/-- Settles O54: an illegal word raises ERR_ILLEGAL_OP, and a command fails only as R231 lists for it. -/
theorem everyErrorHasItsListedCause : Obligations.EveryErrorHasItsListedCause := by
  intro w s t r h hr
  cases hw : decode w with
  | illegal op =>
    rw [runWord_of_illegal hw] at h
    cases h
    obtain rfl : { status := .errIllegalOp } = r := by simpa using hr
    exact ⟨code_ne_opField_of_illegal hw, rfl⟩
  | command i =>
    rw [runWord_of_command hw] at h
    obtain ⟨u, r', he, hu, hcases⟩ := exec_failsOnlyAsListed (hasEntry_of_exec h)
    obtain ⟨rfl, rfl⟩ := response_of_exec he hu h hr
    rcases hcases with hok | herr
    · obtain hst | hst | hst := (Status.isError_eq_false_iff _).1 hok <;> rw [hst] <;> trivial
    · cases herr with
      | encNext ha => exact ⟨.inl ⟨rfl, ha⟩, rfl⟩
      | decByte hcount hd => exact ⟨rfl, .inr ⟨_, rfl, hcount, hd, rfl⟩⟩
      | decEnd => exact ⟨rfl, .inl ⟨rfl, rfl⟩⟩
      | txStartBusy hx => exact ⟨.inr (.inl ⟨_, rfl, hx⟩), rfl⟩
      | txStartTooLarge hx hn => exact ⟨⟨_, rfl, hx, hn⟩, rfl⟩
      | txByte hx => exact ⟨.inr (.inr (.inl ⟨_, rfl, hx⟩)), rfl⟩
      | txEnd hx => exact ⟨.inr (.inr (.inr ⟨rfl, hx⟩)), rfl⟩
      | rxByte hx hd => exact ⟨_, rfl, hx, hd, rfl, rfl⟩
      | rxEosEmpty hx hseen => exact ⟨rfl, hx, hseen, rfl⟩
      | rxEosTruncated hx => exact ⟨rfl, hx, rfl, rfl⟩
      | regRd hn => exact ⟨.inl ⟨_, rfl, hn⟩, rfl⟩
      | rxRdbuf hn => exact ⟨.inr ⟨_, rfl, hn⟩, rfl⟩

end Sys2Proof.Machine
end

section
/-! The host's side of the block: the wait for a command (70_reset R262), commands that only read (20_memory R57), and runs
over the words the host issues (70_reset R260, R275). -/

namespace Sys2Proof.Machine

/-- Settles O9: waiting is to answer the same state. -/
theorem stepWaitsForTheHost : Obligations.StepWaitsForTheHost :=
  fun _ hq => step_of_nil hq

@[simp] theorem State.readReg_pushRsp (s : State) (r : Response) (i : Byte) : (s.pushRsp r).readReg i = s.readReg i := rfl

/-- Settles O18: the response is read from the registers or from RX_BUF, and a response received changes neither. -/
theorem readsHaveNoSideEffects : Obligations.ReadsHaveNoSideEffects := by
  rintro s n i (rfl | rfl)
  · cases hv : s.readReg n with
    | none => exact ⟨_, exec_regRd_unassigned hv, exec_regRd_unassigned ((s.readReg_pushRsp _ n).trans hv)⟩
    | some v => exact ⟨_, exec_regRd_assigned hv, exec_regRd_assigned ((s.readReg_pushRsp _ n).trans hv)⟩
  · by_cases hn : 254 < n.toNat
    · exact ⟨_, exec_rxRdbuf_range hn, exec_rxRdbuf_range hn⟩
    · exact ⟨_, exec_rxRdbuf_read rfl hn, exec_rxRdbuf_read (s.pushRsp_rxBuf _) hn⟩

/-- With a word issued a step answers and keeps the invariants (R275): the word completes on the state without it. -/
theorem step_answers {s : State} (h : s.Inv) {w : CmdWord} {ws : List CmdWord} (hq : s.hostCmd = w :: ws) :
    ∃ t, step s = .next t ∧ t.Inv := by
  rw [step_of_cons hq]
  exact everyCommandWordCompletes _ w (h.congr fun u => sameUnit_hostCmd u s ws)

theorem run_succ_of_step {M : Host.Core} {s t : M.State} (h : M.step s = .next t) (k : Nat) :
    M.run (k + 1) s = M.run k t := by
  rw [Host.Core.run, h]

/-- Settles O13, by induction on the words to be issued: the first step takes one of them and adds one response. -/
theorem everyCommandSequenceIsAnswered : Obligations.EveryCommandSequenceIsAnswered := by
  intro s h
  induction hq : s.hostCmd generalizing s with
  | nil => exact ⟨s, rfl, h, hq, rfl⟩
  | cons w ws ih =>
    obtain ⟨u, hu, hinv⟩ := step_answers h hq
    obtain ⟨hcmd, r, hrsp⟩ := eachCommandGetsOneResponse s u w ws hq hu
    obtain ⟨t, ht, htinv, htcmd, htlen⟩ := ih u hinv hcmd
    refine ⟨t, (run_succ_of_step hu ws.length).trans ht, htinv, htcmd, ?_⟩
    rw [htlen, hrsp, List.length_append, List.length_cons, List.length_cons, List.length_nil]
    omega

end Sys2Proof.Machine
end
